-- ==== Sys2Proof/Word.lean ====
section
/-! DEFINITION. The widths of the Murmur-inverse block (00_scope.md R12): every value is an unsigned bit vector. -/

namespace Sys2Proof

/-- A `u64` (00_scope.md R12). -/
abbrev Word := BitVec 64

/-- A `u8` (00_scope.md R12). -/
abbrev Byte := BitVec 8

/-- A 72-bit command word: `OP` in bits 71:64, `ARG` in bits 63:0 (30_encoding.md R70). -/
abbrev CommandWord := BitVec 72

/-- A 72-bit response word: `ST` in bits 71:64, `DATA` in bits 63:0 (30_encoding.md R76). -/
abbrev ResponseWord := BitVec 72

end Sys2Proof
end

