-- ==== Sys2Proof/Config.lean ====
section
/-! DEFINITION. What the spec fixes for every instance of the block (00_scope.md R6), the parameters an instance chooses
(R7 to R9, R11), the spec's reference instance, and the one free value. -/

namespace Sys2Proof

/-- The two readings of the chunk-mix formula (00_scope.md R8; 90_conflicts.md C3). -/
inductive ChunkMixing where
  | literal
  | sequential
deriving DecidableEq, Repr

/-- The parameters of `Exec` (00_scope.md R7 to R9, R11). The widths of the two capacities carry their bound `< 2^32`.
`RES_CAP = TGT_CAP` is no field of its own (R9). `minv` is a field of its own because the spec also runs instances built
with a wrong inverse (44_searcher.md R175, 60_exceptions.md R229); see `Params.MinvCorrect` (log entry 5). -/
structure Params where
  /-- `M`, the multiplier. -/
  m : BitVec 64
  /-- `MINV`, the multiplier the instance uses as the inverse of `M`. -/
  minv : BitVec 64
  /-- `CHUNK_MIX`. -/
  chunkMix : ChunkMixing
  /-- `TGT_CAP` (and `RES_CAP`). -/
  tgtCap : BitVec 32
  /-- `MSG_CAP`. -/
  msgCap : BitVec 32
deriving DecidableEq, Repr

namespace Config

/-- `SEED` (00_scope.md R6). -/
def seed : BitVec 64 := 0

/-- `R`, the shift amount (00_scope.md R6). -/
def shiftAmount : Nat := 47

/-- `KEYLEN` (00_scope.md R6). -/
def keyLen : Nat := 15

/-- `PFXLEN` (00_scope.md R6). -/
def prefixLen : Nat := 8

/-- `SFXLEN` (00_scope.md R6). -/
def suffixLen : Nat := 7

/-- `ALPHA_LO` (00_scope.md R6). -/
def alphaLo : BitVec 8 := 32

/-- `ALPHA_HI` (00_scope.md R6). -/
def alphaHi : BitVec 8 := 126

/-- `ALPHA_EXCL` (00_scope.md R6). -/
def alphaExcl : BitVec 8 := 92

/-- `ALPHA_N` (00_scope.md R6). -/
def alphaCount : Nat := 94

/-- `BUCKET_MASK` (00_scope.md R6; 43_targetindex.md R150). -/
def bucketMask : BitVec 64 := 0xFF80808080808080

/-- `NPREFIX = 94^8` (00_scope.md R6). -/
def prefixCount : Nat := 94 ^ 8

/-- The reference values of the parameters (00_scope.md R7, R8, R9). The value of `M` is the spec's general knowledge, not its
source's (log entry 4). -/
def reference : Params where
  m := 0xC6A4A7935BD1E995
  minv := 0x5F7A0EA7E59B19BD
  chunkMix := .literal
  tgtCap := 64
  msgCap := 64

/-- FREE VALUE: `Alpha(i)` for `i >= 94`, which 42_alphabet.md R140 does not define. Read only in states no run reaches
(10_state.md R34 line 1; log entry 7). -/
opaque alphaBeyond : BitVec 7 → BitVec 8

end Config

/-- What R7 and R9 ask of the parameters of an instance, apart from `MINV`: `M` is odd, `TGT_CAP >= 1`, `MSG_CAP >= 16`. -/
structure Params.WellBuilt (c : Params) : Prop where
  odd : c.m.getLsbD 0 = true
  tgtCap_pos : 1 ≤ c.tgtCap.toNat
  msgCap_large : 16 ≤ c.msgCap.toNat

/-- `M * MINV mod 2^64 = 1` (00_scope.md R7). -/
abbrev Params.MinvCorrect (c : Params) : Prop := c.m * c.minv = 1

end Sys2Proof
end

