-- ==== Sys2Proof/Syntax.lean ====
section
/-! DEFINITION. The 28 commands of MIB-CMD version 1 (30_encoding.md R71 to R73), one constructor per row of the
opcode table, each operand exactly as wide as its field. -/

namespace Sys2Proof

/-- The seven operand formats (30_encoding.md R71). -/
inductive Format where
  | N
  | W
  | L
  | P
  | B
  | S2
  | S8
deriving DecidableEq, Repr

/-- The commands, in the order of 30_encoding.md R73. Operands are unsigned (R72). -/
inductive Instr where
  /-- 0x00, 46_system.md R210 -/
  | nop
  /-- 0x01, 40_hashcore.md R110 -/
  | hinit (len : BitVec 64)
  /-- 0x02, 40_hashcore.md R111 -/
  | hchunk (k : BitVec 64)
  /-- 0x03, 40_hashcore.md R112 -/
  | htail (w : BitVec 64)
  /-- 0x04, 40_hashcore.md R113 -/
  | hfin
  /-- 0x05, 40_hashcore.md R114 -/
  | hread
  /-- 0x06, 40_hashcore.md R115 -/
  | fhash (n : BitVec 32)
  /-- 0x07, 40_hashcore.md R116; assembler order `n, total` (30_encoding.md R78) -/
  | phash (n total : BitVec 32)
  /-- 0x08, 40_hashcore.md R117 -/
  | invtm (hash : BitVec 64)
  /-- 0x10, 41_msgbuf.md R130 -/
  | mseta (addr : BitVec 32)
  /-- 0x11, 41_msgbuf.md R131 -/
  | mwr8 (b : BitVec 8)
  /-- 0x12, 41_msgbuf.md R132 -/
  | mwr64 (data : BitVec 64)
  /-- 0x13, 41_msgbuf.md R133 -/
  | mrd8
  /-- 0x14, 41_msgbuf.md R134 -/
  | mrd64
  /-- 0x20, 42_alphabet.md R143 -/
  | arst
  /-- 0x21, 42_alphabet.md R144 -/
  | anext
  /-- 0x22, 42_alphabet.md R145 -/
  | achk (b : BitVec 8)
  /-- 0x30, 43_targetindex.md R153 -/
  | tins (hash : BitVec 64)
  /-- 0x31, 43_targetindex.md R154 -/
  | tsize
  /-- 0x32, 43_targetindex.md R155 -/
  | tclr
  /-- 0x33, 43_targetindex.md R156 -/
  | tprobe (p : BitVec 64)
  /-- 0x40, 44_searcher.md R178 -/
  | sstart
  /-- 0x41, 44_searcher.md R180 -/
  | srun (n : BitVec 64)
  /-- 0x42, 44_searcher.md R181 -/
  | sstop
  /-- 0x48, 45_results.md R201 -/
  | rrd (sel : BitVec 2)
  /-- 0x49, 45_results.md R202 -/
  | rpop
  /-- 0xF0, 46_system.md R211 -/
  | crd (idx : BitVec 8)
  /-- 0xFF, 46_system.md R212 -/
  | reset
deriving DecidableEq, Repr

/-- The operand format of a command (30_encoding.md R71, R73). -/
def Instr.format : Instr → Format
  | .nop => .N
  | .hinit _ => .W
  | .hchunk _ => .W
  | .htail _ => .W
  | .hfin => .N
  | .hread => .N
  | .fhash _ => .L
  | .phash _ _ => .P
  | .invtm _ => .W
  | .mseta _ => .L
  | .mwr8 _ => .B
  | .mwr64 _ => .W
  | .mrd8 => .N
  | .mrd64 => .N
  | .arst => .N
  | .anext => .N
  | .achk _ => .B
  | .tins _ => .W
  | .tsize => .N
  | .tclr => .N
  | .tprobe _ => .W
  | .sstart => .N
  | .srun _ => .W
  | .sstop => .N
  | .rrd _ => .S2
  | .rpop => .N
  | .crd _ => .S8
  | .reset => .N

/-- The operands of a command as numbers, in the assembler's order (30_encoding.md R78). -/
def Instr.operands : Instr → List Nat
  | .nop => []
  | .hinit len => [len.toNat]
  | .hchunk k => [k.toNat]
  | .htail w => [w.toNat]
  | .hfin => []
  | .hread => []
  | .fhash n => [n.toNat]
  | .phash n total => [n.toNat, total.toNat]
  | .invtm hash => [hash.toNat]
  | .mseta addr => [addr.toNat]
  | .mwr8 b => [b.toNat]
  | .mwr64 data => [data.toNat]
  | .mrd8 => []
  | .mrd64 => []
  | .arst => []
  | .anext => []
  | .achk b => [b.toNat]
  | .tins hash => [hash.toNat]
  | .tsize => []
  | .tclr => []
  | .tprobe p => [p.toNat]
  | .sstart => []
  | .srun n => [n.toNat]
  | .sstop => []
  | .rrd sel => [sel.toNat]
  | .rpop => []
  | .crd idx => [idx.toNat]
  | .reset => []

end Sys2Proof
end

