-- ==== Sys2Proof/WellFormed.lean ====
section
/-! DEFINITION. Well-formedness of a command's operands (30_encoding.md R71, R72): as many as its format names, each
fitting its field. A term of `Instr` carries operands of exactly the field's width, so every one is well formed; the
check has work to do on operands that are still plain numbers, as an assembler meets them (R78). -/

namespace Sys2Proof

/-- The widths of a format's operand fields, in the assembler's order (30_encoding.md R71). -/
def Format.operandWidths : Format → List Nat
  | .N => []
  | .W => [64]
  | .L => [32]
  | .P => [32, 32]
  | .B => [8]
  | .S2 => [2]
  | .S8 => [8]

/-- Each number fits the field it stands for, and there is one number per field. -/
def fitsWidths : List Nat → List Nat → Bool
  | [], [] => true
  | w :: ws, n :: ns => decide (n < 2 ^ w) && fitsWidths ws ns
  | _, _ => false

/-- The operands fit the format (30_encoding.md R71, R72). -/
def Format.operandsFit (f : Format) (operands : List Nat) : Bool :=
  fitsWidths f.operandWidths operands

/-- A command is well formed when its operands fit its format. -/
def Instr.wellFormed (i : Instr) : Bool := i.format.operandsFit i.operands

end Sys2Proof
end

