-- ==== Sys2Proof/Decode.lean ====
section
/-! DEFINITION. The decoder and the encoder of command words (30_encoding.md R70 to R75). The decoder looks at the word
alone (R75) and is total: every word is exactly one command or is rejected, by name (R74). -/

namespace Sys2Proof

/-- Why a command word is illegal (30_encoding.md R74). Both raise `E_ILLEGAL` in the step; neither stops the machine. -/
inductive DecodeReject where
  /-- R74 (a): `OP` is none of the 28 values. -/
  | unknownOpcode
  /-- R74 (b): `OP` is in the map and a reserved bit of `ARG` is 1. -/
  | reservedBit
deriving DecidableEq, Repr

/-- `OP = CW[71:64]` (30_encoding.md R70). -/
def opField (cw : CommandWord) : BitVec 8 := cw.extractLsb' 64 8

/-- `ARG = CW[63:0]` (30_encoding.md R70). -/
def argField (cw : CommandWord) : BitVec 64 := cw.extractLsb' 0 64

/-- Format `N`: `ARG[63:0]` reserved. -/
def decodeN (arg : BitVec 64) (i : Instr) : Except DecodeReject Instr :=
  if arg = 0 then .ok i else .error .reservedBit

/-- Format `W`: the whole of `ARG`. -/
def decodeW (arg : BitVec 64) (mk : BitVec 64 → Instr) : Except DecodeReject Instr :=
  .ok (mk arg)

/-- Format `L`: `ARG[31:0]`, `ARG[63:32]` reserved. -/
def decodeL (arg : BitVec 64) (mk : BitVec 32 → Instr) : Except DecodeReject Instr :=
  if arg.extractLsb' 32 32 = 0 then .ok (mk (arg.extractLsb' 0 32)) else .error .reservedBit

/-- Format `P`: `n = ARG[31:0]`, `total = ARG[63:32]`. -/
def decodeP (arg : BitVec 64) (mk : BitVec 32 → BitVec 32 → Instr) : Except DecodeReject Instr :=
  .ok (mk (arg.extractLsb' 0 32) (arg.extractLsb' 32 32))

/-- Formats `B` and `S8`: `ARG[7:0]`, `ARG[63:8]` reserved. -/
def decodeB (arg : BitVec 64) (mk : BitVec 8 → Instr) : Except DecodeReject Instr :=
  if arg.extractLsb' 8 56 = 0 then .ok (mk (arg.extractLsb' 0 8)) else .error .reservedBit

/-- Format `S2`: `ARG[1:0]`, `ARG[63:2]` reserved. -/
def decodeS2 (arg : BitVec 64) (mk : BitVec 2 → Instr) : Except DecodeReject Instr :=
  if arg.extractLsb' 2 62 = 0 then .ok (mk (arg.extractLsb' 0 2)) else .error .reservedBit

/-- The opcode map (30_encoding.md R73): the command that `OP` and `ARG` select. -/
def decodeFields (op : Nat) (arg : BitVec 64) : Except DecodeReject Instr :=
  match op with
  | 0x00 => decodeN arg .nop
  | 0x01 => decodeW arg .hinit
  | 0x02 => decodeW arg .hchunk
  | 0x03 => decodeW arg .htail
  | 0x04 => decodeN arg .hfin
  | 0x05 => decodeN arg .hread
  | 0x06 => decodeL arg .fhash
  | 0x07 => decodeP arg .phash
  | 0x08 => decodeW arg .invtm
  | 0x10 => decodeL arg .mseta
  | 0x11 => decodeB arg .mwr8
  | 0x12 => decodeW arg .mwr64
  | 0x13 => decodeN arg .mrd8
  | 0x14 => decodeN arg .mrd64
  | 0x20 => decodeN arg .arst
  | 0x21 => decodeN arg .anext
  | 0x22 => decodeB arg .achk
  | 0x30 => decodeW arg .tins
  | 0x31 => decodeN arg .tsize
  | 0x32 => decodeN arg .tclr
  | 0x33 => decodeW arg .tprobe
  | 0x40 => decodeN arg .sstart
  | 0x41 => decodeW arg .srun
  | 0x42 => decodeN arg .sstop
  | 0x48 => decodeS2 arg .rrd
  | 0x49 => decodeN arg .rpop
  | 0xF0 => decodeB arg .crd
  | 0xFF => decodeN arg .reset
  | _ => .error .unknownOpcode

/-- The decoder (30_encoding.md R73 to R75). -/
def decode (cw : CommandWord) : Except DecodeReject Instr :=
  decodeFields (opField cw).toNat (argField cw)

/-- The word is a legal command (30_encoding.md R74). -/
def isLegal (cw : CommandWord) : Bool := (decode cw).toOption.isSome

/-- The `OP` value of a command (30_encoding.md R73). -/
def Instr.opcode : Instr → BitVec 8
  | .nop => 0x00
  | .hinit _ => 0x01
  | .hchunk _ => 0x02
  | .htail _ => 0x03
  | .hfin => 0x04
  | .hread => 0x05
  | .fhash _ => 0x06
  | .phash _ _ => 0x07
  | .invtm _ => 0x08
  | .mseta _ => 0x10
  | .mwr8 _ => 0x11
  | .mwr64 _ => 0x12
  | .mrd8 => 0x13
  | .mrd64 => 0x14
  | .arst => 0x20
  | .anext => 0x21
  | .achk _ => 0x22
  | .tins _ => 0x30
  | .tsize => 0x31
  | .tclr => 0x32
  | .tprobe _ => 0x33
  | .sstart => 0x40
  | .srun _ => 0x41
  | .sstop => 0x42
  | .rrd _ => 0x48
  | .rpop => 0x49
  | .crd _ => 0xF0
  | .reset => 0xFF

/-- The `ARG` field of a command: each operand in its field, the reserved bits 0 (30_encoding.md R71, R78). -/
def Instr.arg : Instr → BitVec 64
  | .nop => 0
  | .hinit len => len
  | .hchunk k => k
  | .htail w => w
  | .hfin => 0
  | .hread => 0
  | .fhash n => n.setWidth 64
  | .phash n total => total ++ n
  | .invtm hash => hash
  | .mseta addr => addr.setWidth 64
  | .mwr8 b => b.setWidth 64
  | .mwr64 data => data
  | .mrd8 => 0
  | .mrd64 => 0
  | .arst => 0
  | .anext => 0
  | .achk b => b.setWidth 64
  | .tins hash => hash
  | .tsize => 0
  | .tclr => 0
  | .tprobe p => p
  | .sstart => 0
  | .srun n => n
  | .sstop => 0
  | .rrd sel => sel.setWidth 64
  | .rpop => 0
  | .crd idx => idx.setWidth 64
  | .reset => 0

/-- The encoder: the one 72-bit word of a command (30_encoding.md R70, R78). -/
def encode (i : Instr) : CommandWord := i.opcode ++ i.arg

/-- The fixed bits of a format's row of opcode_table.json below `OP` (its `mask`, bits 63:0): a 1 where `ARG` is reserved
(30_encoding.md R71). -/
def Format.reservedMask : Format → BitVec 64
  | .N => 0xFFFFFFFFFFFFFFFF
  | .W => 0
  | .L => 0xFFFFFFFF00000000
  | .P => 0
  | .B => 0xFFFFFFFFFFFFFF00
  | .S2 => 0xFFFFFFFFFFFFFFFC
  | .S8 => 0xFFFFFFFFFFFFFF00

/-- `mask` of a command's row of opcode_table.json (30_encoding.md R73): `OP` and the reserved bits. -/
def Instr.rowMask (i : Instr) : CommandWord := (0xFF : BitVec 8) ++ i.format.reservedMask

/-- `match` of a command's row of opcode_table.json (30_encoding.md R73): its `OP`, and 0 elsewhere. -/
def Instr.rowMatch (i : Instr) : CommandWord := i.opcode ++ (0 : BitVec 64)

/-- The command word of a table row's bits: bit 0 of `w` is bit 0 of the one 72-bit command word, bits above `nbits` are 0. A
command is one word (30_encoding.md R70, R55), so there is no order of words to choose (log entry 8). -/
def tableCommandWord (nbits w : Nat) : CommandWord := BitVec.ofNat 72 (w % 2 ^ nbits)

/-- The command the decoder reads from a table word. -/
def decodeTableWord (nbits w : Nat) : Option Instr := (decode (tableCommandWord nbits w)).toOption

end Sys2Proof
end

