-- ==== Sys2Proof/Machine/State.lean ====
section
/-! DEFINITION. The state of the block (10_state.md R20), its stores, its reset (R36), and the outcomes' reason types. -/

namespace Sys2Proof.Machine

/-- Why a step can stop with a fault: never. Every word in every state has a response and a next state (60_exceptions.md R221,
R222; 30_encoding.md R74, R76), so the type has no constructor (log entry 14). -/
inductive Fault
deriving DecidableEq, Repr

/-- Why a step can refuse. -/
inductive Refusal where
  /-- Raised only by an arm of `exec` whose instruction has no meaning yet; safe (it claims nothing). No arm raises it now. -/
  | notModelled (mnemonic : String)
deriving DecidableEq, Repr

/-- The status codes of a response, in the order of their numbers 0x00 to 0x0B (60_exceptions.md R220). -/
inductive Status where
  | ok
  | eIllegal
  | eBusy
  | eNotrun
  | eNoinit
  | ePrecond
  | eRange
  | eFull
  | eEmpty
  | eEnd
  | eConsist
  | eFaulted
deriving DecidableEq, Repr

/-- The message buffer: (address, byte) pairs, addresses strictly rising, no byte equal to what an unlisted address reads as. -/
abbrev Memory := List Host.Cell

/-- What an unlisted address of `MSG` reads as: the reset content (10_state.md R36). -/
def Memory.unlisted : BitVec 8 := 0

/-- The canonical form of the buffer: addresses strictly rising and no listed byte equal to an unlisted one. -/
def Memory.wf : Memory → Bool
  | [] => true
  | [(_, b)] => b != Memory.unlisted
  | (a, b) :: (a', b') :: rest => b != Memory.unlisted && decide (a < a') && Memory.wf ((a', b') :: rest)

/-- A slot of the target store (10_state.md R27). -/
structure Slot where
  hash : BitVec 64
  trim : BitVec 64
  pend : Bool
deriving DecidableEq, Repr

/-- A record of the result FIFO (10_state.md R30; 45_results.md R200): `key` is 16 bytes, `key[0..8]` the eight bytes of the
prefix, `key[8..15]` the suffix, `key[15] = 0`. -/
structure Record where
  hash : BitVec 64
  key : List (BitVec 8)
deriving DecidableEq, Repr

/-- The odometer `DIG[0..7]` (10_state.md R28): `d0` is `DIG[0]`, the slowest, `d7` is `DIG[7]`, the fastest. -/
structure Odometer where
  d0 : BitVec 7
  d1 : BitVec 7
  d2 : BitVec 7
  d3 : BitVec 7
  d4 : BitVec 7
  d5 : BitVec 7
  d6 : BitVec 7
  d7 : BitVec 7
deriving DecidableEq, Repr

/-- The state. `cfg`, `cmds` and `rsps` are the model's own fields: the parameters of the instance (log entry 3), and the host's
side of the command channel (log entry 1). Every other field is an element of 10_state.md R20. -/
structure State where
  /-- The parameters of `Exec` (00_scope.md R11); no command writes them. -/
  cfg : Params
  /-- `H` (R21). -/
  h : BitVec 64
  /-- `HV` (R21, R23). -/
  hv : Bool
  /-- `MA` (R24). -/
  ma : BitVec 32
  /-- `MSG` (R25). -/
  msg : Memory
  /-- `AC` (R26). -/
  ac : BitVec 7
  /-- `TGT[0..TGT_CAP-1]` (R27). -/
  tgt : List Slot
  /-- `TN` (R27). -/
  tn : BitVec 32
  /-- `DIG[0..7]` (R28). -/
  dig : Odometer
  /-- `RUN` (R23). -/
  run : Bool
  /-- `FE` (R23). -/
  fe : Bool
  /-- `FX` (R23). -/
  fx : Bool
  /-- `FAULT` (R23). -/
  fault : Bool
  /-- `PCNT` (R29). -/
  pcnt : BitVec 64
  /-- `RES[0..RES_CAP-1]` (R30). -/
  res : List Record
  /-- `RN` (R30). -/
  rn : BitVec 32
  /-- The command words the host has issued and the block has not taken, the next one first. -/
  cmds : List (BitVec 72)
  /-- The response words the host has been given, the latest first. -/
  rsps : List (BitVec 72)
deriving DecidableEq, Repr

/-- A slot after reset (R36). -/
def Slot.zero : Slot := ⟨0, 0, false⟩

/-- A record after reset (R36). -/
def Record.zero : Record := ⟨0, List.replicate 16 0⟩

/-- The odometer after reset: the first of the enumeration (R36). -/
def Odometer.zero : Odometer := ⟨0, 0, 0, 0, 0, 0, 0, 0⟩

/-- The state of an instance with parameters `c` right after reset (R36), with nothing issued and nothing answered. -/
def State.resetWith (c : Params) : State where
  cfg := c
  h := 0
  hv := false
  ma := 0
  msg := []
  ac := 0
  tgt := List.replicate c.tgtCap.toNat Slot.zero
  tn := 0
  dig := Odometer.zero
  run := false
  fe := false
  fx := false
  fault := false
  pcnt := 0
  res := List.replicate c.tgtCap.toNat Record.zero
  rn := 0
  cmds := []
  rsps := []

/-- The reference instance (00_scope.md R7 to R9) right after reset (R36). -/
def State.reset : State := State.resetWith Config.reference

end Sys2Proof.Machine
end

