-- ==== Sys2Proof/Machine/Flags.lean ====
section
/-! DEFINITION. The numbers of the status codes (60_exceptions.md R220) and the packing of the flags into `STATUS`
(10_state.md R32). The arithmetic of the block sets no flag (40_hashcore.md R90, R91). -/

namespace Sys2Proof.Machine

/-- The field `ST` of a status (60_exceptions.md R220). -/
def Status.code : Status → BitVec 8
  | .ok => 0x00
  | .eIllegal => 0x01
  | .eBusy => 0x02
  | .eNotrun => 0x03
  | .eNoinit => 0x04
  | .ePrecond => 0x05
  | .eRange => 0x06
  | .eFull => 0x07
  | .eEmpty => 0x08
  | .eEnd => 0x09
  | .eConsist => 0x0A
  | .eFaulted => 0x0B

/-- `STATUS.CMIX` (10_state.md R32): 0 for the literal reading, 1 for the sequential one. -/
def chunkMixBit : ChunkMixing → Bool
  | .literal => false
  | .sequential => true

/-- The fields of `STATUS`, bits 7 down to 0, bits 63:8 reading 0 (10_state.md R32). -/
def packStatus (cmix fault tne rne hv fx fe run : Bool) : Word :=
  (0 : BitVec 56) ++ BitVec.ofBool cmix ++ BitVec.ofBool fault ++ BitVec.ofBool tne ++ BitVec.ofBool rne
    ++ BitVec.ofBool hv ++ BitVec.ofBool fx ++ BitVec.ofBool fe ++ BitVec.ofBool run

end Sys2Proof.Machine
end

