-- ==== Sys2Proof/Machine/Operands.lean ====
section
/-! DEFINITION. Operand assembly and byte packing: zero extension (30_encoding.md R72) and the little-endian packing of
bytes into a word (00_scope.md R14; 20_memory.md R52). -/

namespace Sys2Proof.Machine

/-- `zext_64(v)` (00_scope.md R12): every operand and every datum narrower than a word is zero-extended (30_encoding.md R72). -/
def zext64 {n : Nat} (v : BitVec n) : Word := v.setWidth 64

/-- Byte `i` of a word: `w[8i+7 : 8i]` (00_scope.md R14). -/
def byteAt (w : Word) (i : Nat) : Byte := w.extractLsb' (8 * i) 8

/-- `Bytes8(w)` (00_scope.md R14). -/
def bytes8 (w : Word) : List Byte :=
  [byteAt w 0, byteAt w 1, byteAt w 2, byteAt w 3, byteAt w 4, byteAt w 5, byteAt w 6, byteAt w 7]

/-- `LE64` (00_scope.md R14): the first byte of the sequence is the least significant byte of the word. -/
def le64 : List Byte → Word
  | [] => 0
  | b :: bs => zext64 b ||| (le64 bs <<< 8)

/-- `PackTail` (00_scope.md R14): little-endian, the unused high bytes 0. -/
def packTail (bs : List Byte) : Word := le64 (bs ++ List.replicate (8 - bs.length) 0)

/-- A bit as a word, 0 or 1. -/
def bitWord (b : Bool) : Word := if b then 1 else 0

end Sys2Proof.Machine
end

