-- ==== Sys2Proof/Machine/Ops.lean ====
section
/-! DEFINITION. The named operations over the state: the updates of its elements, the response, raising an error, the fault
latch, reset, and the accesses to the message buffer and the target store. -/

namespace Sys2Proof.Machine

/-! ### Named updates, one for each group of elements a command writes together -/

/-- `H <- v ; HV <- valid`. -/
def State.setHash (s : State) (v : Word) (valid : Bool) : State := { s with h := v, hv := valid }

/-- `MA <- a`. -/
def State.setMa (s : State) (a : BitVec 32) : State := { s with ma := a }

/-- `MSG <- m`. -/
def State.setMsg (s : State) (m : Memory) : State := { s with msg := m }

/-- `AC <- a`. -/
def State.setAc (s : State) (a : BitVec 7) : State := { s with ac := a }

/-- `TGT <- slots ; TN <- n`. -/
def State.setTargets (s : State) (slots : List Slot) (n : BitVec 32) : State := { s with tgt := slots, tn := n }

/-- `RES <- records ; RN <- n`. -/
def State.setResults (s : State) (records : List Record) (n : BitVec 32) : State := { s with res := records, rn := n }

/-- `DIG <- d`. -/
def State.setDig (s : State) (d : Odometer) : State := { s with dig := d }

/-- `PCNT <- c`. -/
def State.setPcnt (s : State) (c : Word) : State := { s with pcnt := c }

/-- `RUN <- r ; FE <- e ; FX <- x`. -/
def State.setSearchFlags (s : State) (r e x : Bool) : State := { s with run := r, fe := e, fx := x }

/-- The host's word list after the block has taken its first word. -/
def State.setCmds (s : State) (ws : List CommandWord) : State := { s with cmds := ws }

/-! ### The response (30_encoding.md R76) -/

/-- `rsp(ST, DATA)`: `ST` in bits 71:64, `DATA` in bits 63:0. -/
def rsp (st : Status) (data : Word) : ResponseWord := st.code ++ data

/-- The command ends with the response `rsp(st, data)`. -/
def State.answer (s : State) (st : Status) (data : Word) : State := { s with rsps := rsp st data :: s.rsps }

/-! ### Taking an error, and what follows it (60_exceptions.md R221, R222)

Taking an error is the whole of trap entry on this hardware: the command ends, nothing is written, the response carries the
code. There is no return: the host issues its next command, and nothing was saved that could be restored. -/

/-- `raise E_X` for every error but `E_CONSIST` (R222). -/
def State.raise (s : State) (e : Status) : State := s.answer e 0

/-- The effect of a failed consistency check on the flags (44_searcher.md R175; 60_exceptions.md R229). -/
def State.latchFault (s : State) : State := { s with fault := true, run := false }

/-- The test every command but `NOP`, `CRD` and `RESET` makes first (60_exceptions.md R224, R231). -/
def unlessFaulted (s : State) (command : State → State) : State :=
  if s.fault then s.raise .eFaulted else command s

/-- A command completes: the block never stops (60_exceptions.md R221). -/
def complete (s : State) : Host.Outcome State Fault Refusal := .next s

/-- The answer to an illegal command word (R223): `E_ILLEGAL`, whatever the fault latch holds, and nothing else changes. -/
def answerIllegal (s : State) : Host.Outcome State Fault Refusal := complete <| s.raise .eIllegal

/-! ### Reset (70_reset_and_hazards.md R250) -/

/-- The reset event: every element of state at its reset value; parameters and the host's side of the channel are no elements of
state (R250; 00_scope.md R11). It is the effect of the hardware reset and of `RESET` alike. -/
def State.hardReset (s : State) : State :=
  { State.resetWith s.cfg with cmds := s.cmds, rsps := s.rsps }

/-! ### The message buffer (20_memory.md R53, R54) -/

/-- One byte of the buffer. -/
def Memory.read : Memory → Nat → Byte
  | [], _ => Memory.unlisted
  | (a, b) :: rest, x => if a = x then b else Memory.read rest x

/-- One byte written, the canonical form kept: the value an unlisted address reads as is not listed. -/
def Memory.write : Memory → Nat → Byte → Memory
  | [], x, v => if v = Memory.unlisted then [] else [(x, v)]
  | (a, b) :: rest, x, v =>
    if x < a then
      if v = Memory.unlisted then (a, b) :: rest else (x, v) :: (a, b) :: rest
    else if x = a then
      if v = Memory.unlisted then rest else (x, v) :: rest
    else (a, b) :: Memory.write rest x v

/-- Bytes written at rising addresses from `x`. -/
def Memory.writeBytes : Memory → Nat → List Byte → Memory
  | m, _, [] => m
  | m, x, b :: bs => Memory.writeBytes (Memory.write m x b) (x + 1) bs

/-- The `n` bytes from address `x` on. -/
def Memory.readBytes (m : Memory) (x n : Nat) : List Byte := (List.range n).map fun i => Memory.read m (x + i)

/-- `MemRead(addr, 1)` (R53). -/
def memRead1 (s : State) (addr : Nat) : Byte := Memory.read s.msg addr

/-- `MemRead(addr, 8)` (R53). -/
def memRead8 (s : State) (addr : Nat) : Word := le64 (Memory.readBytes s.msg addr 8)

/-- `MemWrite(addr, 1, v)` (R54). -/
def memWrite1 (s : State) (addr : Nat) (v : Byte) : State := s.setMsg (Memory.write s.msg addr v)

/-- `MemWrite(addr, 8, v)` (R54): byte `i` of `v` to address `addr + i`. -/
def memWrite8 (s : State) (addr : Nat) (v : Word) : State := s.setMsg (Memory.writeBytes s.msg addr (bytes8 v))

/-- `[MSG[0], ..., MSG[n-1]]`, what `FHASH` and `PHASH` read whatever `MA` holds (10_state.md R25). -/
def messageBytes (s : State) (n : Nat) : List Byte := Memory.readBytes s.msg 0 n

/-- The range test of an access of `n` bytes at `MA`: `MA + n > MSG_CAP`, over the numbers, so that no address wraps
(20_memory.md R59). -/
def accessOutOfRange (s : State) (n : Nat) : Bool := decide (s.cfg.msgCap.toNat < s.ma.toNat + n)

/-- `MA <- MA + n`, the post-increment (10_state.md R24). -/
def State.advanceMa (s : State) (n : BitVec 32) : State := s.setMa (s.ma + n)

/-! ### The target store (10_state.md R27) -/

/-- The allocated slots, `TGT[0..TN-1]`, in order of insertion. -/
def State.allocated (s : State) : List Slot := s.tgt.take s.tn.toNat

/-- `Pending()` (43_targetindex.md R151): the allocated slots with `pend = 1`. -/
def State.pendingCount (s : State) : Nat := s.allocated.countP fun t => t.pend

/-- `Pending()`, zero-extended to 64 bits. -/
def State.pendingWord (s : State) : Word := BitVec.ofNat 64 s.pendingCount

/-- `STATUS` (10_state.md R32). -/
def State.statusWord (s : State) : Word :=
  packStatus (chunkMixBit s.cfg.chunkMix) s.fault (decide (0 < s.pendingCount)) (decide (0 < s.rn.toNat)) s.hv s.fx s.fe s.run

end Sys2Proof.Machine
end

