-- ==== Sys2Proof/Machine/Alphabet.lean ====
section
/-! DEFINITION. The alphabet (42_alphabet.md R140 to R142) and its host-visible sequence (R143 to R145). -/

namespace Sys2Proof.Machine

/-- `Alpha(i)` (R140), defined for `i` in 0..93; beyond, a free value (log entry 7). -/
def alpha (i : BitVec 7) : Byte :=
  if i.toNat ≤ 59 then Config.alphaLo + i.setWidth 8
  else if i.toNat < Config.alphaCount then Config.alphaLo + 1 + i.setWidth 8
  else Config.alphaBeyond i

/-- `InAlpha(b)` (R141). -/
def inAlpha (b : Byte) : Bool :=
  decide (Config.alphaLo.toNat ≤ b.toNat) && decide (b.toNat ≤ Config.alphaHi.toNat) && b != Config.alphaExcl

/-- `ValidTail(c)` (R142). -/
def validTail (c : Word) : Bool := byteAt c 7 == 0 && ((bytes8 c).take 7).all inAlpha

/-- `ARST` (R143). -/
def execArst (s : State) : Host.Outcome State Fault Refusal :=
  complete <| unlessFaulted s fun s => (s.setAc 0).answer .ok 0

/-- `ANEXT` (R144). -/
def execAnext (s : State) : Host.Outcome State Fault Refusal :=
  complete <| unlessFaulted s fun s =>
    if Config.alphaCount ≤ s.ac.toNat then s.raise .eEnd
    else (s.setAc (s.ac + 1)).answer .ok (zext64 (alpha s.ac))

/-- `ACHK b` (R145). -/
def execAchk (b : BitVec 8) (s : State) : Host.Outcome State Fault Refusal :=
  complete <| unlessFaulted s fun s => s.answer .ok (bitWord (inAlpha b))

end Sys2Proof.Machine
end

