-- ==== Sys2Proof/Machine/HashCore.lean ====
section
/-! DEFINITION. HashCore (40_hashcore.md): the primitive functions R94 to R100, the forward hash R101, the hash of a leading
part R102, and the commands R110 to R117. Arithmetic is modulo 2^64 (R90 to R92). -/

namespace Sys2Proof.Machine

/-- `XSH(x) = x ^ (x >> 47)` (R95). -/
def xsh (x : Word) : Word := x ^^^ (x >>> Config.shiftAmount)

/-- `MulM(x) = x * M` (R96). -/
def mulM (c : Params) (x : Word) : Word := x * c.m

/-- `MulMinv(x) = x * MINV` (R96). -/
def mulMinv (c : Params) (x : Word) : Word := x * c.minv

/-- `ChunkMix(k)`, in the reading the instance has (R94; 00_scope.md R8). -/
def chunkMix (c : Params) (k : Word) : Word :=
  match c.chunkMix with
  | .literal => ((k * c.m) ^^^ (k >>> Config.shiftAmount)) * c.m
  | .sequential =>
    let k1 := k * c.m
    let k2 := k1 ^^^ (k1 >>> Config.shiftAmount)
    k2 * c.m

/-- `HashInit(len) = (len * M) ^ SEED` (R97). -/
def hashInit (c : Params) (len : Word) : Word := (len * c.m) ^^^ Config.seed

/-- `Absorb(h, v) = (h ^ v) * M` (R98). -/
def absorb (c : Params) (h v : Word) : Word := (h ^^^ v) * c.m

/-- `Finalize(h) = XSH(MulM(XSH(h)))` (R99). -/
def finalize (c : Params) (h : Word) : Word := xsh (mulM c (xsh h))

/-- `InvertTrailingMix(hash) = MulMinv(XSH(MulMinv(XSH(hash))))` (R100). -/
def invertTrailingMix (c : Params) (hash : Word) : Word := mulMinv c (xsh (mulMinv c (xsh hash)))

/-- The loop of R101 and R102: the first `q` chunks of `b` absorbed into `h`, in order. -/
def absorbChunks (c : Params) : Nat → Word → List Byte → Word
  | 0, h, _ => h
  | q + 1, h, b => absorbChunks c q (absorb c h (chunkMix c (le64 (b.take 8)))) (b.drop 8)

/-- `ForwardHash(b)` (R101). -/
def forwardHash (c : Params) (b : List Byte) : Word :=
  let n := b.length
  let q := n / 8
  let h := absorbChunks c q (hashInit c (BitVec.ofNat 64 n)) b
  if 0 < n % 8 then finalize c (absorb c h (packTail (b.drop (8 * q)))) else finalize c h

/-- `PartialForwardHash(b, total)` (R102), on its precondition; the command outside it is R116. -/
def partialForwardHash (c : Params) (b : List Byte) (total : Word) : Word :=
  absorbChunks c (b.length / 8) (hashInit c total) b

/-- The test of the commands that read `H`: `E_NOINIT` while `HV = 0` (R111 to R114; 60_exceptions.md R227). -/
def requireHash (s : State) (command : State → State) : State :=
  if s.hv then command s else s.raise .eNoinit

/-- `H <- v`, and the new `H` is the response (R111 to R113); `HV` stays as it is. -/
def updateHash (s : State) (v : Word) : State := (s.setHash v s.hv).answer .ok v

/-- `HINIT len` (R110). -/
def execHinit (len : BitVec 64) (s : State) : Host.Outcome State Fault Refusal :=
  complete <| unlessFaulted s fun s => (s.setHash (hashInit s.cfg len) true).answer .ok 0

/-- `HCHUNK k` (R111). -/
def execHchunk (k : BitVec 64) (s : State) : Host.Outcome State Fault Refusal :=
  complete <| unlessFaulted s fun s => requireHash s fun s => updateHash s (absorb s.cfg s.h (chunkMix s.cfg k))

/-- `HTAIL w` (R112). -/
def execHtail (w : BitVec 64) (s : State) : Host.Outcome State Fault Refusal :=
  complete <| unlessFaulted s fun s => requireHash s fun s => updateHash s (absorb s.cfg s.h w)

/-- `HFIN` (R113). -/
def execHfin (s : State) : Host.Outcome State Fault Refusal :=
  complete <| unlessFaulted s fun s => requireHash s fun s => updateHash s (finalize s.cfg s.h)

/-- `HREAD` (R114). -/
def execHread (s : State) : Host.Outcome State Fault Refusal :=
  complete <| unlessFaulted s fun s => requireHash s fun s => s.answer .ok s.h

/-- `FHASH n` (R115). -/
def execFhash (n : BitVec 32) (s : State) : Host.Outcome State Fault Refusal :=
  complete <| unlessFaulted s fun s =>
    if s.cfg.msgCap.toNat < n.toNat then s.raise .eRange
    else s.answer .ok (forwardHash s.cfg (messageBytes s n.toNat))

/-- `PHASH n, total` (R116): `E_PRECOND` before `E_RANGE` (60_exceptions.md R231). -/
def execPhash (n total : BitVec 32) (s : State) : Host.Outcome State Fault Refusal :=
  complete <| unlessFaulted s fun s =>
    if n.toNat % 8 ≠ 0 ∨ total.toNat < n.toNat then s.raise .ePrecond
    else if s.cfg.msgCap.toNat < n.toNat then s.raise .eRange
    else s.answer .ok (partialForwardHash s.cfg (messageBytes s n.toNat) (zext64 total))

/-- `INVTM hash` (R117). -/
def execInvtm (hash : BitVec 64) (s : State) : Host.Outcome State Fault Refusal :=
  complete <| unlessFaulted s fun s => s.answer .ok (invertTrailingMix s.cfg hash)

end Sys2Proof.Machine
end

