-- ==== Sys2Proof/Machine/MsgBuf.lean ====
section
/-! DEFINITION. The message buffer commands (41_msgbuf.md R130 to R134): register indirect through `MA`, with
post-increment by the access size. -/

namespace Sys2Proof.Machine

/-- The test of the four accesses: `E_RANGE` when `MA + n > MSG_CAP` (60_exceptions.md R230). -/
def requireRange (s : State) (n : Nat) (command : State → State) : State :=
  if accessOutOfRange s n then s.raise .eRange else command s

/-- `MSETA addr` (R130). -/
def execMseta (addr : BitVec 32) (s : State) : Host.Outcome State Fault Refusal :=
  complete <| unlessFaulted s fun s =>
    if s.cfg.msgCap.toNat ≤ addr.toNat then s.raise .eRange else (s.setMa addr).answer .ok 0

/-- `MWR8 b` (R131). -/
def execMwr8 (b : BitVec 8) (s : State) : Host.Outcome State Fault Refusal :=
  complete <| unlessFaulted s fun s => requireRange s 1 fun s =>
    ((memWrite1 s s.ma.toNat b).advanceMa 1).answer .ok 0

/-- `MWR64 data` (R132). -/
def execMwr64 (data : BitVec 64) (s : State) : Host.Outcome State Fault Refusal :=
  complete <| unlessFaulted s fun s => requireRange s 8 fun s =>
    ((memWrite8 s s.ma.toNat data).advanceMa 8).answer .ok 0

/-- `MRD8` (R133). -/
def execMrd8 (s : State) : Host.Outcome State Fault Refusal :=
  complete <| unlessFaulted s fun s => requireRange s 1 fun s =>
    (s.advanceMa 1).answer .ok (zext64 (memRead1 s s.ma.toNat))

/-- `MRD64` (R134). -/
def execMrd64 (s : State) : Host.Outcome State Fault Refusal :=
  complete <| unlessFaulted s fun s => requireRange s 8 fun s =>
    (s.advanceMa 8).answer .ok (memRead8 s s.ma.toNat)

end Sys2Proof.Machine
end

