-- ==== Sys2Proof/Machine/Results.lean ====
section
/-! DEFINITION. The result FIFO commands (45_results.md R200 to R202). -/

namespace Sys2Proof.Machine

/-- `KLO`: the word of the first eight bytes of the key (R200). -/
def Record.klo (r : Record) : Word := le64 (r.key.take 8)

/-- `KHI`: the tail word, the last eight bytes of the key (R200). -/
def Record.khi (r : Record) : Word := le64 (r.key.drop 8)

/-- The word of a record that `sel` names (R201). -/
def Record.select (r : Record) (sel : Nat) : Word :=
  match sel with
  | 0 => r.hash
  | 1 => r.klo
  | _ => r.khi

/-- The head record, while `RN > 0`: `RES[0]`. -/
def State.headRecord (s : State) : Record := s.res.headD Record.zero

/-- `RRD sel` (R201): `E_RANGE` before `E_EMPTY`. -/
def execRrd (sel : BitVec 2) (s : State) : Host.Outcome State Fault Refusal :=
  complete <| unlessFaulted s fun s =>
    if sel.toNat = 3 then s.raise .eRange
    else if s.rn = 0 then s.raise .eEmpty
    else s.answer .ok (s.headRecord.select sel.toNat)

/-- `RES[i] <- RES[i+1]` for `i` in `0 .. n-2` (R202): record `n-1` and those above it keep what they hold. -/
def shiftRecords (records : List Record) (n : Nat) : List Record :=
  (records.drop 1).take (n - 1) ++ records.drop (n - 1)

/-- `RPOP` (R202). -/
def execRpop (s : State) : Host.Outcome State Fault Refusal :=
  complete <| unlessFaulted s fun s =>
    if s.rn = 0 then s.raise .eEmpty
    else (s.setResults (shiftRecords s.res s.rn.toNat) (s.rn - 1)).answer .ok 0

end Sys2Proof.Machine
end

