-- ==== Sys2Proof/Machine/Enumeration.lean ====
section
/-! DEFINITION. The odometer: the eight bytes it names, their number in the enumeration, and the advance to the next
(44_searcher.md R171 to R173). -/

namespace Sys2Proof.Machine

/-- `DIG[0], ..., DIG[7]`. -/
def Odometer.digits (o : Odometer) : List (BitVec 7) := [o.d0, o.d1, o.d2, o.d3, o.d4, o.d5, o.d6, o.d7]

/-- `PrefixBytes()` (R171). -/
def Odometer.bytes (o : Odometer) : List Byte := o.digits.map alpha

/-- `PrefixWord()` (R171). -/
def Odometer.word (o : Odometer) : Word := le64 o.bytes

/-- `PrefixIndex()` (R171). -/
def Odometer.index (o : Odometer) : Nat :=
  o.d0.toNat * 94 ^ 7 + o.d1.toNat * 94 ^ 6 + o.d2.toNat * 94 ^ 5 + o.d3.toNat * 94 ^ 4
    + o.d4.toNat * 94 ^ 3 + o.d5.toNat * 94 ^ 2 + o.d6.toNat * 94 + o.d7.toNat

/-- `OdoInc()` (R173), from the fastest digit to the slowest; `none` when every digit is 93, where the search ends instead
(R176) and `OdoInc` is never applied. -/
def Odometer.next? (o : Odometer) : Option Odometer :=
  if o.d7 ≠ 93 then some { o with d7 := o.d7 + 1 }
  else if o.d6 ≠ 93 then some { o with d6 := o.d6 + 1, d7 := 0 }
  else if o.d5 ≠ 93 then some { o with d5 := o.d5 + 1, d6 := 0, d7 := 0 }
  else if o.d4 ≠ 93 then some { o with d4 := o.d4 + 1, d5 := 0, d6 := 0, d7 := 0 }
  else if o.d3 ≠ 93 then some { o with d3 := o.d3 + 1, d4 := 0, d5 := 0, d6 := 0, d7 := 0 }
  else if o.d2 ≠ 93 then some { o with d2 := o.d2 + 1, d3 := 0, d4 := 0, d5 := 0, d6 := 0, d7 := 0 }
  else if o.d1 ≠ 93 then some { o with d1 := o.d1 + 1, d2 := 0, d3 := 0, d4 := 0, d5 := 0, d6 := 0, d7 := 0 }
  else if o.d0 ≠ 93 then some ⟨o.d0 + 1, 0, 0, 0, 0, 0, 0, 0⟩
  else none

/-- `P15(x)` of the eight bytes the odometer names (R172; 40_hashcore.md R102): step 1 of the search. -/
def Odometer.leadHash (c : Params) (o : Odometer) : Word :=
  absorb c (hashInit c (BitVec.ofNat 64 Config.keyLen)) (chunkMix c o.word)

end Sys2Proof.Machine
end

