-- ==== Sys2Proof/Machine/TargetIndex.lean ====
section
/-! DEFINITION. The target index (43_targetindex.md): the signature and the buckets R151, and the commands R153 to R156. -/

namespace Sys2Proof.Machine

/-- `Sig(v) = v & BUCKET_MASK` (R151). -/
def sig (v : Word) : Word := v &&& Config.bucketMask

/-- The slot is in the bucket of signature `g`: pending, with that signature (R151). -/
def Slot.inBucket (g : Word) (t : Slot) : Bool := t.pend && sig t.trim == g

/-- `Bucket(g)` (R151): the allocated pending slots of that signature, in increasing slot index. -/
def State.bucket (s : State) (g : Word) : List Slot := s.allocated.filter (Slot.inBucket g)

/-- The hash is in the deduplication set (10_state.md R27): an allocated slot holds it, pending or not. -/
def State.knows (s : State) (hash : Word) : Bool := s.allocated.any fun t => t.hash == hash

/-- The test of the commands that change the index or start a search: `E_BUSY` while `RUN = 1` (44_searcher.md R179;
60_exceptions.md R225). -/
def requireIdle (s : State) (command : State → State) : State :=
  if s.run then s.raise .eBusy else command s

/-- `TGT[TN] <- { hash, InvertTrailingMix(hash), 1 } ; TN <- TN + 1` (R153). -/
def State.allocate (s : State) (hash : Word) : State :=
  s.setTargets (s.tgt.set s.tn.toNat ⟨hash, invertTrailingMix s.cfg hash, true⟩) (s.tn + 1)

/-- `TINS hash` (R153): the duplicate test before the capacity test. -/
def execTins (hash : BitVec 64) (s : State) : Host.Outcome State Fault Refusal :=
  complete <| unlessFaulted s fun s => requireIdle s fun s =>
    if s.knows hash then s.answer .ok 0
    else if s.tn = s.cfg.tgtCap then s.raise .eFull
    else (s.allocate hash).answer .ok 1

/-- `TSIZE` (R154). -/
def execTsize (s : State) : Host.Outcome State Fault Refusal :=
  complete <| unlessFaulted s fun s => s.answer .ok s.pendingWord

/-- `TCLR` (R155): the store and the result FIFO emptied, `FE` and `FX` cleared. -/
def execTclr (s : State) : Host.Outcome State Fault Refusal :=
  complete <| unlessFaulted s fun s => requireIdle s fun s =>
    (((s.setTargets s.tgt 0).setResults s.res 0).setSearchFlags s.run false false).answer .ok 0

/-- `TPROBE p` (R156). -/
def execTprobe (p : BitVec 64) (s : State) : Host.Outcome State Fault Refusal :=
  complete <| unlessFaulted s fun s => s.answer .ok (BitVec.ofNat 64 (s.bucket (sig p)).length)

end Sys2Proof.Machine
end

