-- ==== Sys2Proof/Machine/Searcher.lean ====
section
/-! DEFINITION. The searcher (44_searcher.md): the match R174 with its consistency check R175, the end of a step R176, the
search step R177, and the commands R178, R180, R181. -/

namespace Sys2Proof.Machine

/-- What the match decides for one slot. -/
inductive Verdict where
  /-- Not in the bucket, or no valid tail word: the slot stays as it is. -/
  | skip
  /-- A valid 15-byte key whose forward hash is the slot's hash. -/
  | hit (key : List (BitVec 8))
  /-- A valid tail word whose key does not hash to the slot's hash (R175). -/
  | violation
deriving DecidableEq, Repr

/-- The result of the loop over the slots. -/
structure MatchResult where
  /-- The slots, those that were hit no longer pending. -/
  slots : List Slot
  /-- The records to append, in slot order. -/
  records : List Record
  /-- The consistency check failed at the slot where the loop ended. -/
  violated : Bool
deriving DecidableEq, Repr

/-- The candidate word `c = p ^ trim` (R174). -/
def candidate (p : Word) (t : Slot) : Word := p ^^^ t.trim

/-- The key `x ++ Bytes8(c)[0..7]`, 15 bytes (R174). -/
def candidateKey (x : List Byte) (p : Word) (t : Slot) : List Byte :=
  x ++ (bytes8 (candidate p t)).take Config.suffixLen

/-- Steps 2 and 3 for one slot (R174, R175): `x` the bytes of the odometer, `p` their hash. -/
def judgeSlot (c : Params) (x : List Byte) (p : Word) (t : Slot) : Verdict :=
  if t.inBucket (sig p) then
    if validTail (candidate p t) then
      if forwardHash c (candidateKey x p t) = t.hash then .hit (candidateKey x p t) else .violation
    else .skip
  else .skip

/-- The record of a hit: the sixteenth byte of the key is 0 (R174; 45_results.md R200). -/
def recordOf (t : Slot) (key : List Byte) : Record := ⟨t.hash, key ++ [0]⟩

/-- The loop over the slots in increasing index (R174, R177); a failed check ends it, what earlier slots gave is kept (R175). -/
def matchSlots (c : Params) (x : List Byte) (p : Word) : List Slot → MatchResult
  | [] => ⟨[], [], false⟩
  | t :: ts =>
    match judgeSlot c x p t with
    | .skip =>
      let r := matchSlots c x p ts
      ⟨t :: r.slots, r.records, r.violated⟩
    | .hit key =>
      let r := matchSlots c x p ts
      ⟨{ t with pend := false } :: r.slots, recordOf t key :: r.records, r.violated⟩
    | .violation => ⟨t :: ts, [], true⟩

/-- `RES[RN] <- r ; RN <- RN + 1` (R174). -/
def State.appendRecord (s : State) (r : Record) : State := s.setResults (s.res.set s.rn.toNat r) (s.rn + 1)

/-- Steps 2 to 4 for the bytes the odometer names (R174): the match applied to the allocated slots. -/
def State.matchStep (s : State) : MatchResult :=
  matchSlots s.cfg s.dig.bytes (s.dig.leadHash s.cfg) s.allocated

/-- The state after the match: the slots that were hit no longer pending, their records appended. -/
def State.applyMatch (s : State) (r : MatchResult) : State :=
  r.records.foldl State.appendRecord (s.setTargets (r.slots ++ s.tgt.drop s.tn.toNat) s.tn)

/-- Step 5 and exhaustion (R176). -/
def State.endStep (s : State) : State :=
  let s := s.setPcnt (s.pcnt + 1)
  if s.pendingCount = 0 then s.setSearchFlags false true s.fx
  else
    match s.dig.next? with
    | none => s.setSearchFlags false s.fe true
    | some d => s.setDig d

/-- How a search step ends (R177). -/
inductive StepEnd where
  /-- `return done` -/
  | done (s : State)
  /-- `return fault` -/
  | violation (s : State)
deriving DecidableEq, Repr

/-- `SearchStep()` (R177). -/
def searchStep (s : State) : StepEnd :=
  let r := s.matchStep
  let s := s.applyMatch r
  if r.violated then .violation s.latchFault else .done s.endStep

/-- The loop of `SRUN` (R180): at most `fuel` more steps, `c` done so far; the response says how many were completed. -/
def runSteps : Nat → Word → State → State
  | 0, c, s => s.answer .ok c
  | fuel + 1, c, s =>
    if s.run then
      match searchStep s with
      | .done s => runSteps fuel (c + 1) s
      | .violation s => s.answer .eConsist c
    else s.answer .ok c

/-- The test of `SRUN` and `SSTOP`: `E_NOTRUN` while `RUN = 0` (60_exceptions.md R226). -/
def requireRun (s : State) (command : State → State) : State :=
  if s.run then command s else s.raise .eNotrun

/-- `SSTART` (R178): with nothing pending the search is over before it starts. -/
def execSstart (s : State) : Host.Outcome State Fault Refusal :=
  complete <| unlessFaulted s fun s => requireIdle s fun s =>
    let s := ((s.setDig Odometer.zero).setPcnt 0).setResults s.res 0
    let pending := decide (0 < s.pendingCount)
    (s.setSearchFlags pending (!pending) false).answer .ok s.pendingWord

/-- `SRUN n` (R180). -/
def execSrun (n : BitVec 64) (s : State) : Host.Outcome State Fault Refusal :=
  complete <| unlessFaulted s fun s => requireRun s fun s => runSteps n.toNat 0 s

/-- `SSTOP` (R181): `DIG`, `PCNT`, `TGT` and `RES` are kept. -/
def execSstop (s : State) : Host.Outcome State Fault Refusal :=
  complete <| unlessFaulted s fun s => requireRun s fun s => (s.setSearchFlags false false false).answer .ok 0

end Sys2Proof.Machine
end

