-- ==== Sys2Proof/Machine/System.lean ====
section
/-! DEFINITION. The system commands (46_system.md R210 to R212), the only ones that execute while `FAULT = 1`, and the
control and status registers they read (10_state.md R31). -/

namespace Sys2Proof.Machine

/-- `CAPS`: bits 31:0 `TGT_CAP`, bits 63:32 `MSG_CAP` (10_state.md R31). -/
def capsWord (c : Params) : Word := c.msgCap ++ c.tgtCap

/-- `CSR[idx]` (10_state.md R31): the thirteen read-only registers, and nothing at any other index. -/
def State.csr (s : State) (idx : Nat) : Option Word :=
  match idx with
  | 0x00 => some s.statusWord
  | 0x01 => some s.cfg.m
  | 0x02 => some s.cfg.minv
  | 0x03 => some (BitVec.ofNat 64 Config.shiftAmount)
  | 0x04 => some Config.bucketMask
  | 0x05 => some (capsWord s.cfg)
  | 0x06 => some s.pendingWord
  | 0x07 => some (zext64 s.tn)
  | 0x08 => some (zext64 s.rn)
  | 0x09 => some s.dig.word
  | 0x0A => some s.pcnt
  | 0x0B => some (zext64 s.ma)
  | 0x0C => some (zext64 s.ac)
  | _ => none

/-- `NOP` (R210). -/
def execNop (s : State) : Host.Outcome State Fault Refusal :=
  complete <| s.answer .ok 0

/-- `CRD idx` (R211). -/
def execCrd (idx : BitVec 8) (s : State) : Host.Outcome State Fault Refusal :=
  complete <|
    match s.csr idx.toNat with
    | some v => s.answer .ok v
    | none => s.raise .eRange

/-- `RESET` (R212): the reset event as a command. -/
def execReset (s : State) : Host.Outcome State Fault Refusal :=
  complete <| s.hardReset.answer .ok 0

end Sys2Proof.Machine
end

