-- ==== Sys2Proof/Machine/Dispatch.lean ====
section
/-! DEFINITION. The dispatch: one arm per command of the opcode map (30_encoding.md R73). -/

namespace Sys2Proof.Machine

def exec (i : Instr) (s : State) : Host.Outcome State Fault Refusal :=
  match i with
  | .nop => Sys2Proof.Machine.execNop s
  | .hinit len => Sys2Proof.Machine.execHinit len s
  | .hchunk k => Sys2Proof.Machine.execHchunk k s
  | .htail w => Sys2Proof.Machine.execHtail w s
  | .hfin => Sys2Proof.Machine.execHfin s
  | .hread => Sys2Proof.Machine.execHread s
  | .fhash n => Sys2Proof.Machine.execFhash n s
  | .phash n total => Sys2Proof.Machine.execPhash n total s
  | .invtm hash => Sys2Proof.Machine.execInvtm hash s
  | .mseta addr => Sys2Proof.Machine.execMseta addr s
  | .mwr8 b => Sys2Proof.Machine.execMwr8 b s
  | .mwr64 data => Sys2Proof.Machine.execMwr64 data s
  | .mrd8 => Sys2Proof.Machine.execMrd8 s
  | .mrd64 => Sys2Proof.Machine.execMrd64 s
  | .arst => Sys2Proof.Machine.execArst s
  | .anext => Sys2Proof.Machine.execAnext s
  | .achk b => Sys2Proof.Machine.execAchk b s
  | .tins hash => Sys2Proof.Machine.execTins hash s
  | .tsize => Sys2Proof.Machine.execTsize s
  | .tclr => Sys2Proof.Machine.execTclr s
  | .tprobe p => Sys2Proof.Machine.execTprobe p s
  | .sstart => Sys2Proof.Machine.execSstart s
  | .srun n => Sys2Proof.Machine.execSrun n s
  | .sstop => Sys2Proof.Machine.execSstop s
  | .rrd sel => Sys2Proof.Machine.execRrd sel s
  | .rpop => Sys2Proof.Machine.execRpop s
  | .crd idx => Sys2Proof.Machine.execCrd idx s
  | .reset => Sys2Proof.Machine.execReset s

end Sys2Proof.Machine
end

