-- ==== Sys2Proof/Machine/Step.lean ====
section
/-! DEFINITION. One step of the block (00_scope.md R10): it takes the next command word of the host, if there is one, and
executes it. -/

namespace Sys2Proof.Machine

/-- With no word issued the block is idle and its state held (00_scope.md R10; 60_exceptions.md R244; log entry 2). Otherwise the
next word is taken, decoded from the word alone (30_encoding.md R75), and executed; an illegal word raises `E_ILLEGAL`
(60_exceptions.md R223). -/
def step (s : State) : Host.Outcome State Fault Refusal :=
  match s.cmds with
  | [] => .next s
  | w :: rest =>
    match decode w with
    | .ok i => exec i (s.setCmds rest)
    | .error _ => answerIllegal (s.setCmds rest)

/-- The host issues the command word of a table row before every other word it has still to issue, so that the next step runs it
(log entries 2 and 8). Nothing else changes. -/
def State.withFetchWord (s : State) (nbits w : Nat) : State :=
  s.setCmds (tableCommandWord nbits w :: s.cmds)

end Sys2Proof.Machine
end

