-- ==== Sys2Proof/Machine/Assembler.lean ====
section
/-! DEFINITION. The assembler text form and the pseudo-instructions (30_encoding.md R78, R79). They are the host's notation for
command words: nothing of the block reads them. A text is a list of characters. -/

namespace Sys2Proof.Machine

/-! ### Pseudo-instructions (R79) -/

/-- `SEARCH`: start, then run to the end. -/
def expandSearch : List Instr := [.sstart, .srun 0xFFFFFFFFFFFFFFFF]

/-- `HASH15 klo, khi`. -/
def expandHash15 (klo khi : BitVec 64) : List Instr := [.hinit 15, .hchunk klo, .htail khi, .hfin]

/-- `PFX15 klo`. -/
def expandPfx15 (klo : BitVec 64) : List Instr := [.hinit 15, .hchunk klo, .hread]

/-- `MSTR a, "s"`. -/
def expandMstr (a : BitVec 32) (str : List (BitVec 8)) : List Instr := .mseta a :: str.map .mwr8

/-! ### One line of text (R78) -/

/-- The pieces of a line. -/
inductive Token where
  | word (cs : List Char)
  | chr (c : Char)
  | str (cs : List Char)
  | comma
deriving DecidableEq, Repr

/-- A word that has been read so far, its last character first. -/
def flushWord : List Char → List Token
  | [] => []
  | cs => [.word cs.reverse]

/-- Where the reader of a line stands: in a word (empty between words), or inside a string. -/
inductive LexMode where
  | plain (acc : List Char)
  | quoted (acc : List Char)
deriving DecidableEq, Repr

/-- The pieces of a line; text after `;` is a comment. -/
def lex : LexMode → List Char → Option (List Token)
  | .plain acc, [] => some (flushWord acc)
  | .quoted _, [] => none
  | .quoted acc, c :: cs =>
    if c = '"' then (lex (.plain []) cs).map (.str acc.reverse :: ·) else lex (.quoted (c :: acc)) cs
  | .plain acc, '\'' :: c :: '\'' :: cs => if acc.isEmpty then (lex (.plain []) cs).map (.chr c :: ·) else none
  | .plain acc, c :: cs =>
    if c = ';' then some (flushWord acc)
    else if c = ' ' ∨ c = '\t' then (lex (.plain []) cs).map (flushWord acc ++ ·)
    else if c = ',' then (lex (.plain []) cs).map (flushWord acc ++ .comma :: ·)
    else if c = '"' then (if acc.isEmpty then lex (.quoted []) cs else none)
    else lex (.plain (c :: acc)) cs

/-- The value of a digit in a base. -/
def digitValue (base : Nat) (c : Char) : Option Nat :=
  let v :=
    if '0' ≤ c ∧ c ≤ '9' then c.toNat - '0'.toNat
    else if 'A' ≤ c ∧ c ≤ 'F' then c.toNat - 'A'.toNat + 10
    else if 'a' ≤ c ∧ c ≤ 'f' then c.toNat - 'a'.toNat + 10
    else 16
  if v < base then some v else none

/-- Digits read from the left. -/
def digitsValue (base : Nat) : Nat → List Char → Option Nat
  | acc, [] => some acc
  | acc, c :: cs =>
    match digitValue base c with
    | some d => digitsValue base (acc * base + d) cs
    | none => none

/-- A decimal number, or a hexadecimal one after `0x`. -/
def numberValue : List Char → Option Nat
  | [] => none
  | ['0', 'x'] => none
  | '0' :: 'x' :: cs => digitsValue 16 0 cs
  | cs => digitsValue 10 0 cs

/-- An operand of a line: a number, a character in single quotes, or a string in double quotes. -/
inductive Operand where
  | num (n : Nat)
  | chr (c : Char)
  | str (cs : List Char)
deriving DecidableEq, Repr

/-- One operand piece. -/
def operandOf : Token → Option Operand
  | .word cs => (numberValue cs).map .num
  | .chr c => some (.chr c)
  | .str cs => some (.str cs)
  | .comma => none

/-- The operands of a line, separated by commas. -/
def operandList : List Token → Option (List Operand)
  | [] => some []
  | [t] => (operandOf t).map ([·])
  | t :: .comma :: t' :: ts =>
    match operandOf t, operandList (t' :: ts) with
    | some o, some os => some (o :: os)
    | _, _ => none
  | _ => none

/-- The numbers of the operands of a command: a character stands for its ASCII code, in format `B` only. -/
def operandNumbers (f : Format) : List Operand → Option (List Nat)
  | [] => some []
  | .num n :: os => (operandNumbers f os).map (n :: ·)
  | .chr c :: os => if f = .B ∧ c.toNat < 128 then (operandNumbers f os).map (c.toNat :: ·) else none
  | .str _ :: _ => none

/-- A command with its operands in their fields; an operand that does not fit is refused. -/
def buildCommand (f : Format) (mk : List Nat → Option Instr) (os : List Operand) : Option (List Instr) :=
  match operandNumbers f os with
  | some ns => if f.operandsFit ns then (mk ns).map ([·]) else none
  | none => none

/-- Format `N`. -/
def build0 (i : Instr) : List Operand → Option (List Instr) :=
  buildCommand .N fun | [] => some i | _ => none

/-- The formats with one field. -/
def build1 {w : Nat} (f : Format) (mk : BitVec w → Instr) : List Operand → Option (List Instr) :=
  buildCommand f fun | [n] => some (mk (BitVec.ofNat w n)) | _ => none

/-- Format `P`. -/
def build2 (mk : BitVec 32 → BitVec 32 → Instr) : List Operand → Option (List Instr) :=
  buildCommand .P fun | [a, b] => some (mk (BitVec.ofNat 32 a) (BitVec.ofNat 32 b)) | _ => none

/-- The commands a mnemonic and its operands stand for: one command (R73), or the expansion of a pseudo-instruction (R79). -/
def assemble (mnemonic : List Char) (os : List Operand) : Option (List Instr) :=
  match mnemonic with
  | ['N', 'O', 'P'] => build0 .nop os
  | ['H', 'I', 'N', 'I', 'T'] => build1 .W .hinit os
  | ['H', 'C', 'H', 'U', 'N', 'K'] => build1 .W .hchunk os
  | ['H', 'T', 'A', 'I', 'L'] => build1 .W .htail os
  | ['H', 'F', 'I', 'N'] => build0 .hfin os
  | ['H', 'R', 'E', 'A', 'D'] => build0 .hread os
  | ['F', 'H', 'A', 'S', 'H'] => build1 .L .fhash os
  | ['P', 'H', 'A', 'S', 'H'] => build2 .phash os
  | ['I', 'N', 'V', 'T', 'M'] => build1 .W .invtm os
  | ['M', 'S', 'E', 'T', 'A'] => build1 .L .mseta os
  | ['M', 'W', 'R', '8'] => build1 .B .mwr8 os
  | ['M', 'W', 'R', '6', '4'] => build1 .W .mwr64 os
  | ['M', 'R', 'D', '8'] => build0 .mrd8 os
  | ['M', 'R', 'D', '6', '4'] => build0 .mrd64 os
  | ['A', 'R', 'S', 'T'] => build0 .arst os
  | ['A', 'N', 'E', 'X', 'T'] => build0 .anext os
  | ['A', 'C', 'H', 'K'] => build1 .B .achk os
  | ['T', 'I', 'N', 'S'] => build1 .W .tins os
  | ['T', 'S', 'I', 'Z', 'E'] => build0 .tsize os
  | ['T', 'C', 'L', 'R'] => build0 .tclr os
  | ['T', 'P', 'R', 'O', 'B', 'E'] => build1 .W .tprobe os
  | ['S', 'S', 'T', 'A', 'R', 'T'] => build0 .sstart os
  | ['S', 'R', 'U', 'N'] => build1 .W .srun os
  | ['S', 'S', 'T', 'O', 'P'] => build0 .sstop os
  | ['R', 'R', 'D'] => build1 .S2 .rrd os
  | ['R', 'P', 'O', 'P'] => build0 .rpop os
  | ['C', 'R', 'D'] => build1 .S8 .crd os
  | ['R', 'E', 'S', 'E', 'T'] => build0 .reset os
  | ['S', 'E', 'A', 'R', 'C', 'H'] => if os = [] then some expandSearch else none
  | ['H', 'A', 'S', 'H', '1', '5'] =>
    match os with
    | [.num klo, .num khi] =>
      if klo < 2 ^ 64 ∧ khi < 2 ^ 64 then some (expandHash15 (BitVec.ofNat 64 klo) (BitVec.ofNat 64 khi)) else none
    | _ => none
  | ['P', 'F', 'X', '1', '5'] =>
    match os with
    | [.num klo] => if klo < 2 ^ 64 then some (expandPfx15 (BitVec.ofNat 64 klo)) else none
    | _ => none
  | ['M', 'S', 'T', 'R'] =>
    match os with
    | [.num a, .str cs] =>
      if a < 2 ^ 32 ∧ cs.all (fun c => c.toNat < 128) then
        some (expandMstr (BitVec.ofNat 32 a) (cs.map fun c => BitVec.ofNat 8 c.toNat))
      else none
    | _ => none
  | _ => none

/-- The commands of one line: none for a blank line, `none` for a line that is no command. -/
def parseLine (line : List Char) : Option (List Instr) :=
  match lex (.plain []) line with
  | some [] => some []
  | some (.word m :: ts) =>
    match operandList ts with
    | some os => assemble m os
    | none => none
  | _ => none

/-- The command words of one line (R78). -/
def assembleLine (line : List Char) : Option (List CommandWord) := (parseLine line).map fun is => is.map encode

end Sys2Proof.Machine
end

