-- ==== Sys2Proof/Safety.lean ====
section
/-! DEFINITION. What counts as a good state and a safe run: the invariants the spec lists (10_state.md R34), and the words in
which the statements speak of runs and of searches (44_searcher.md section 3). -/

namespace Sys2Proof.Machine

/-- A record that is valid output (R34 line 7; 45_results.md R200): 16 key bytes, the last one 0, the other fifteen in the
alphabet and hashing to the record's hash, which is the hash of a resolved slot. -/
structure State.RecordGood (s : State) (r : Record) : Prop where
  key_length : r.key.length = 16
  key_last : r.key[15]? = some 0
  key_alpha : ∀ b ∈ r.key.take 15, inAlpha b = true
  key_hash : forwardHash s.cfg (r.key.take 15) = r.hash
  resolved : ∃ t ∈ s.allocated, t.hash = r.hash ∧ t.pend = false

/-- The records the FIFO holds, `RES[0..RN-1]`, oldest first. -/
def State.records (s : State) : List Record := s.res.take s.rn.toNat

/-- The invariants of the block (10_state.md R34), with the shapes of the stores (R20) and the canonical form of `MSG`. -/
structure State.Inv (s : State) : Prop where
  /-- The target store has `TGT_CAP` slots. -/
  tgt_length : s.tgt.length = s.cfg.tgtCap.toNat
  /-- The result FIFO has `RES_CAP = TGT_CAP` records. -/
  res_length : s.res.length = s.cfg.tgtCap.toNat
  /-- Line 1. -/
  tn_le : s.tn.toNat ≤ s.cfg.tgtCap.toNat
  rn_le : s.rn.toNat ≤ s.cfg.tgtCap.toNat
  ma_le : s.ma.toNat ≤ s.cfg.msgCap.toNat
  ac_le : s.ac.toNat ≤ 94
  digits_le : ∀ d ∈ s.dig.digits, d.toNat ≤ 93
  /-- The message buffer is in canonical form, inside its address space. -/
  msg_wf : Memory.wf s.msg = true
  msg_inside : ∀ cell ∈ s.msg, cell.1 < s.cfg.msgCap.toNat
  /-- Line 2. -/
  trims : ∀ t ∈ s.allocated, t.trim = invertTrailingMix s.cfg t.hash
  /-- Line 3. -/
  hashes_distinct : (s.allocated.map Slot.hash).Nodup
  /-- Line 4. -/
  running : s.run = true → 0 < s.pendingCount ∧ s.fe = false ∧ s.fx = false ∧ s.fault = false
  /-- Line 5. -/
  ends_exclusive : (s.fe && s.fx) = false
  /-- Line 6. -/
  progress : s.run = true → s.pcnt.toNat = s.dig.index
  /-- Line 7. -/
  records_good : ∀ r ∈ s.records, s.RecordGood r
  /-- Line 8. -/
  records_distinct : (s.records.map Record.hash).Nodup

/-- `k` steps from `s` end in `t`, with no stop on the way. -/
def RunsTo (s : State) : Nat → State → Prop
  | 0, t => s = t
  | k + 1, t => ∃ u, step s = .next u ∧ RunsTo u k t

/-- The response is an answer of status `st`: its field `ST` (30_encoding.md R76). -/
def HasStatus (r : ResponseWord) (st : Status) : Prop := r.extractLsb' 64 8 = st.code

/-- The chunk words of a message: `LE64(b[8i..8i+8])` for each full chunk, in order (40_hashcore.md R109). -/
def chunkWords (b : List Byte) : List Word :=
  (List.range (b.length / 8)).map fun i => le64 ((b.drop (8 * i)).take 8)

/-- The bytes after the last full chunk, `b[8q..n]` (40_hashcore.md R101). -/
def tailBytes (b : List Byte) : List Byte := b.drop (8 * (b.length / 8))

/-- `Hits(i)` of 44_searcher.md section 3, for the slot `t`: the odometer names a leading part that completes to a key. -/
def Slot.hitBy (c : Params) (t : Slot) (o : Odometer) : Prop := validTail (o.leadHash c ^^^ t.trim) = true

/-- Every digit is one of the 94 alphabet indices (10_state.md R28). -/
def Odometer.legal (o : Odometer) : Prop := ∀ d ∈ o.digits, d.toNat ≤ 93

/-- `first(i)` of 44_searcher.md section 3: the hit with the least number in the enumeration. -/
structure Slot.FirstHit (c : Params) (t : Slot) (o : Odometer) : Prop where
  legal : o.legal
  hit : t.hitBy c o
  least : ∀ o' : Odometer, o'.legal → t.hitBy c o' → o.index ≤ o'.index

/-- The commands that return nothing (30_encoding.md R77, first row). -/
def returnsNothing : Instr → Bool
  | .nop | .hinit _ | .mseta _ | .mwr8 _ | .mwr64 _ | .arst | .tclr | .sstop | .rpop | .reset => true
  | _ => false

/-- The own errors of each command: the table of R232. -/
def ownErrors : Instr → List Status
  | .nop | .hinit _ | .invtm _ | .arst | .achk _ | .tsize | .tprobe _ | .reset => []
  | .hchunk _ | .htail _ | .hfin | .hread => [.eNoinit]
  | .fhash _ => [.eRange]
  | .phash _ _ => [.ePrecond, .eRange]
  | .mseta _ | .mwr8 _ | .mwr64 _ | .mrd8 | .mrd64 => [.eRange]
  | .anext => [.eEnd]
  | .tins _ => [.eBusy, .eFull]
  | .tclr | .sstart => [.eBusy]
  | .srun _ => [.eNotrun, .eConsist]
  | .sstop => [.eNotrun]
  | .rrd _ => [.eRange, .eEmpty]
  | .rpop => [.eEmpty]
  | .crd _ => [.eRange]

/-! ### The document's search, from its own words (44_searcher.md R170, R174, R176, R182)

A second form of the search, over the document's data: an index from signatures to lists of (hash, trim) pairs, and the leading
parts listed in lexicographic order. Nothing of the block's state is in it. -/

/-- The alphabet, in ascending order: all of 32..126 but 92 (42_alphabet.md R140). -/
def alphabet : List Byte := ((List.range 95).map fun i => BitVec.ofNat 8 (32 + i)).filter (· != 92)

/-- Every string of `k` alphabet bytes, in lexicographic order: the outermost byte varies slowest (R170). -/
def alphabetStrings : Nat → List (List Byte)
  | 0 => [[]]
  | k + 1 => alphabet.flatMap fun b => (alphabetStrings k).map (b :: ·)

/-- The document's index: a bucket of (hash, trim) pairs for each signature that has one. -/
abbrev DocIndex := List (Word × List (Word × Word))

/-- A pair appended to the bucket of its signature, made if there is none (43_targetindex.md R153). -/
def DocIndex.append (signature : Word) (pair : Word × Word) : DocIndex → DocIndex
  | [] => [(signature, [pair])]
  | (g, l) :: rest => if g = signature then (g, l ++ [pair]) :: rest else (g, l) :: DocIndex.append signature pair rest

/-- The index that holds these slots, inserted in this order (43_targetindex.md R153). -/
def DocIndex.ofSlots (ts : List Slot) : DocIndex :=
  ts.foldl (fun idx t => DocIndex.append (sig t.trim) (t.hash, t.trim) idx) []

/-- The bucket of a signature, empty if there is none. -/
def DocIndex.bucket (idx : DocIndex) (signature : Word) : List (Word × Word) :=
  match idx.find? (fun e => e.1 == signature) with
  | some e => e.2
  | none => []

/-- The bucket of a signature replaced by what is left of it, and removed from the index if nothing is (R174, step 4). -/
def DocIndex.shrink (idx : DocIndex) (signature : Word) (left : List (Word × Word)) : DocIndex :=
  if left = [] then idx.filter (fun e => e.1 != signature)
  else idx.map fun e => if e.1 == signature then (e.1, left) else e

/-- The document's enumeration (its steps 1 to 5): the results in the order they are produced, and the index left at the end. -/
def docSearch (c : Params) : List (List Byte) → DocIndex → List (Word × List Byte) × DocIndex
  | [], idx => ([], idx)
  | x :: xs, idx =>
    let p := partialForwardHash c x 15
    let matched := (idx.bucket (sig p)).filter fun e => validTail (p ^^^ e.2)
    let left := (idx.bucket (sig p)).filter fun e => !validTail (p ^^^ e.2)
    let idx' := if matched = [] then idx else idx.shrink (sig p) left
    let found := matched.map fun e => (e.1, x ++ (bytes8 (p ^^^ e.2)).take 7)
    if idx' = [] then (found, idx')
    else
      let r := docSearch c xs idx'
      (found ++ r.1, r.2)

end Sys2Proof.Machine
end

