-- ==== Sys2Proof/Certificates/Slice0/Obligations.lean ====
section
/-! DEFINITION. The statements for the provers. Each docstring names the rule of spec/ it formalises. A result is written out in
the spec's arithmetic, not by calling the meaning it is about; a next state is written as the whole state, so that what is not
named is unchanged. That the response word is put on the list `rsps`, and that the host's words wait in `cmds`, is the model's own
form of the command channel (log entries 1 and 2): it stands for "the response is" and "the next word is", and says no more. -/

open Sys2Proof Sys2Proof.Machine

/-! ### Encoding (30_encoding.md) -/

/-- No bit of a command is dropped: decoding what the encoder writes gives the command back, for every command and every value
of every operand. -/
def Obligations.DecodingAnEncodedCommandGivesItBack : Prop :=
  ∀ i : Instr, decode (encode i) = .ok i

/-- Each legal word has one meaning and each command one word: encoding what the decoder reads gives the word back. -/
def Obligations.EncodingADecodedWordGivesItBack : Prop :=
  ∀ (cw : CommandWord) (i : Instr), decode cw = .ok i → encode i = cw

/-- The decoder selects by `CW & mask = match` (R73): the word of a decoded command is of the command's row, a word of some row
decodes to a command of that row, and no word is of rows with two different `OP` values. -/
def Obligations.DecoderSelectsTheRowByMaskAndMatch : Prop :=
  ∀ (cw : CommandWord) (i : Instr),
    (decode cw = .ok i → cw &&& i.rowMask = i.rowMatch) ∧
    (cw &&& i.rowMask = i.rowMatch → ∃ j, decode cw = .ok j ∧ j.opcode = i.opcode) ∧
    (∀ k : Instr, cw &&& i.rowMask = i.rowMatch → cw &&& k.rowMask = k.rowMatch → i.opcode = k.opcode)

/-- Words written out from the encoding tables decode to the commands they stand for: one or two of each operand format. -/
def Obligations.WordsOfTheEncodingTablesDecode : Prop :=
  decode 0x000000000000000000 = .ok .nop ∧
  decode 0x309CC9C33498A95EFB = .ok (.tins 0x9CC9C33498A95EFB) ∧
  decode 0x06000000000000000F = .ok (.fhash 15) ∧
  decode 0x070000000F00000008 = .ok (.phash 8 15) ∧
  decode 0x110000000000000068 = .ok (.mwr8 0x68) ∧
  decode 0x480000000000000002 = .ok (.rrd 2) ∧
  decode 0xF0000000000000000D = .ok (.crd 0x0D) ∧
  decode 0x410000000000000001 = .ok (.srun 1) ∧
  decode 0xFF0000000000000000 = .ok .reset

/-- R74: a word is rejected for its `OP` exactly when `OP` is none of the 28, and for a reserved bit exactly when `OP` is one of them
and `ARG` has a 1 in a bit its format reserves. -/
def Obligations.IllegalWordsAreTheUnknownAndTheReserved : Prop :=
  ∀ cw : CommandWord,
    (decode cw = .error .unknownOpcode ↔ ∀ i : Instr, i.opcode ≠ opField cw) ∧
    (decode cw = .error .reservedBit ↔
      ∃ i : Instr, i.opcode = opField cw ∧ argField cw &&& i.format.reservedMask ≠ 0)

/-! ### The step and the command channel (00_scope.md R10, 30_encoding.md R76) -/

/-- When the next word of the host decodes to a command, the step is the command's meaning, at the state in which the block has
taken the word and nothing else has changed. With no word waiting the block does not change (R10: it never acts on its own). The
list of waiting words is the model's own (log entries 1 and 2). -/
def Obligations.StepRunsTheDecodedCommand : Prop :=
  (∀ (s : State) (w : CommandWord) (rest : List CommandWord) (i : Instr),
    s.cmds = w :: rest → decode w = .ok i → step s = exec i { s with cmds := rest }) ∧
  ∀ s : State, s.cmds = [] → step s = .next s

/-- R223: a word that selects no row answers `E_ILLEGAL`, with the latch set or not, and nothing else changes; the two words of
the rule's example are such words. -/
def Obligations.IllegalWordAnswersAndChangesNothing : Prop :=
  (∀ (s : State) (w : CommandWord) (rest : List CommandWord), s.cmds = w :: rest →
    (∀ i : Instr, w &&& i.rowMask ≠ i.rowMatch) →
      step s = .next { s with cmds := rest, rsps := ((0x01 : BitVec 8) ++ (0 : BitVec 64)) :: s.rsps }) ∧
  (∀ i : Instr, (0x500000000000000000 : CommandWord) &&& i.rowMask ≠ i.rowMatch) ∧
  (∀ i : Instr, (0x040000000000000001 : CommandWord) &&& i.rowMask ≠ i.rowMatch)

/-- R76: every command word, legal or not, gets exactly one response; its `ST` is one of the twelve codes 0x00 to 0x0B, and its
`DATA` is 0 for an error other than `E_CONSIST` and for the commands that return nothing. No word changes the parameters of the
instance (R11). -/
def Obligations.EveryWordGetsExactlyOneResponse : Prop :=
  ∀ (s : State) (w : CommandWord) (rest : List CommandWord), s.cmds = w :: rest →
    ∃ (t : State) (r : ResponseWord), step s = .next t ∧ t.cmds = rest ∧ t.rsps = r :: s.rsps ∧ t.cfg = s.cfg ∧
      (r.extractLsb' 64 8).toNat ≤ 0x0B ∧
      (r.extractLsb' 64 8 ≠ 0x00 → r.extractLsb' 64 8 ≠ 0x0A → r.extractLsb' 0 64 = 0) ∧
      (∀ i : Instr, decode w = .ok i → returnsNothing i = true → r.extractLsb' 0 64 = 0)

/-! ### Errors (60_exceptions.md) -/

/-- R222: a word whose response is an error other than `E_CONSIST`, legal or not, has changed no element of the state, and its
`DATA` is 0. -/
def Obligations.FailedCommandChangesNothing : Prop :=
  ∀ (s t : State) (w : CommandWord) (rest : List CommandWord) (r : ResponseWord), s.cmds = w :: rest → step s = .next t →
    t.rsps = r :: s.rsps → ¬ HasStatus r .ok → ¬ HasStatus r .eConsist →
      t = { s with cmds := rest, rsps := r :: s.rsps } ∧ r.extractLsb' 0 64 = 0

/-- R224: with the fault latch set every command but `NOP`, `CRD` and `RESET` answers `E_FAULTED` and changes nothing, and those
three never answer it. -/
def Obligations.LatchedFaultRefusesAllButThree : Prop :=
  ∀ (i : Instr) (s : State), s.fault = true →
    if i = .nop ∨ i = .reset ∨ (∃ idx, i = .crd idx) then
      ∃ t r, exec i s = .next t ∧ t.rsps = r :: s.rsps ∧ ¬ HasStatus r .eFaulted
    else exec i s = .next { s with rsps := ((0x0B : BitVec 8) ++ (0 : BitVec 64)) :: s.rsps }

/-- R232: what a command answers is `OK`, an error of its row of the table, or, unless it is `NOP`, `CRD` or `RESET`, `E_FAULTED`. -/
def Obligations.CommandsRaiseOnlyTheirOwnErrors : Prop :=
  ∀ (i : Instr) (s t : State) (r : ResponseWord), exec i s = .next t → t.rsps = r :: s.rsps →
    HasStatus r .ok ∨ (∃ e ∈ ownErrors i, HasStatus r e) ∨
      (HasStatus r .eFaulted ∧ s.fault = true ∧ i ≠ .nop ∧ i ≠ .reset ∧ ∀ idx, i ≠ .crd idx)

/-- R175, R229: a failed consistency check, at the slot `i` of the prefix the search stands on, every earlier slot having passed
its own: the latch is set, `RUN` cleared, the answer is `E_CONSIST` with no step completed; slot `i` and all after it stay as they
are, the earlier slots that were hit are resolved and their records kept, and `PCNT`, `DIG`, `FE`, `FX` and the rest stay. -/
def Obligations.FailedConsistencyCheckLatchesTheFault : Prop :=
  ∀ (s : State) (n : BitVec 64) (i : Nat) (sl : Slot), s.Inv → s.run = true → n ≠ 0 →
    let x := s.dig.bytes
    let p := partialForwardHash s.cfg x 15
    let tail (a : Slot) : List Byte := (bytes8 (p ^^^ a.trim)).take 7
    let matched (a : Slot) : Bool := a.pend && (a.trim &&& 0xFF80808080808080 == p &&& 0xFF80808080808080) && validTail (p ^^^ a.trim)
    s.allocated[i]? = some sl → matched sl = true → forwardHash s.cfg (x ++ tail sl) ≠ sl.hash →
    (∀ a ∈ s.allocated.take i, matched a = true → forwardHash s.cfg (x ++ tail a) = a.hash) →
      ∃ t : State, exec (.srun n) s = .next t ∧
        t = { s with
          fault := true, run := false, rsps := ((0x0A : BitVec 8) ++ (0 : BitVec 64)) :: s.rsps
          tgt := (s.tgt.take i).map (fun a => { a with pend := a.pend && !matched a }) ++ s.tgt.drop i
          res := t.res, rn := t.rn } ∧
        t.records = s.records ++ ((s.allocated.take i).filter matched).map fun a => ⟨a.hash, x ++ tail a ++ [0]⟩

/-- R231: the three cases in which two errors of one command apply and the order decides. -/
def Obligations.OrderOfErrorsDecidesThreeCases : Prop :=
  (∀ (n total : BitVec 32) (s : State), s.fault = false → n.toNat % 8 ≠ 0 ∨ total.toNat < n.toNat →
    s.cfg.msgCap.toNat < n.toNat →
      exec (.phash n total) s = .next { s with rsps := ((0x05 : BitVec 8) ++ (0 : BitVec 64)) :: s.rsps }) ∧
  (∀ s : State, s.fault = false → s.rn = 0 →
    exec (.rrd 3) s = .next { s with rsps := ((0x06 : BitVec 8) ++ (0 : BitVec 64)) :: s.rsps }) ∧
  (∀ (hash : BitVec 64) (s : State), s.fault = false → s.run = true → s.knows hash = false → s.tn = s.cfg.tgtCap →
    exec (.tins hash) s = .next { s with rsps := ((0x02 : BitVec 8) ++ (0 : BitVec 64)) :: s.rsps })

/-! ### HashCore: the laws (40_hashcore.md section 3) -/

/-- R103, R104, R105: the xor-shift undoes itself, the two multiplications undo each other, `XSH(MulMinv(XSH(y)))` undoes `Finalize`
on both sides, and it is the first three steps of `InvertTrailingMix`. -/
def Obligations.InverseStepsUndoTheForwardSteps : Prop :=
  (∀ x : Word, xsh (xsh x) = x) ∧
  ∀ c : Params, c.MinvCorrect →
    (∀ x, mulMinv c (mulM c x) = x) ∧ (∀ x, mulM c (mulMinv c x) = x) ∧
    (∀ x, xsh (mulMinv c (xsh (finalize c x))) = x) ∧ (∀ y, finalize c (xsh (mulMinv c (xsh y))) = y) ∧
    ∀ y, invertTrailingMix c y = mulMinv c (xsh (mulMinv c (xsh y)))

/-- R106: the trailing-mix identity, and what it says of the hash of any fifteen bytes, in either reading of the chunk mix. -/
def Obligations.InvertedHashIsLeadHashXorTail : Prop :=
  ∀ c : Params, c.MinvCorrect →
    (∀ g t : Word, invertTrailingMix c (finalize c (absorb c g t)) = g ^^^ t) ∧
    ∀ x tail : List Byte, x.length = 8 → tail.length = 7 →
      invertTrailingMix c (forwardHash c (x ++ tail)) = partialForwardHash c x 15 ^^^ packTail tail

/-- R107: for a hash and eight leading bytes there is a seven-byte tail that completes them to a preimage exactly when byte 7 of
`c = P15(x) ^ InvertTrailingMix(hash)` is 0, and it is the seven low bytes of `c`. -/
def Obligations.TailOfAPreimageIsRecoveredDirectly : Prop :=
  ∀ c : Params, c.MinvCorrect → ∀ (hash : Word) (x tail : List Byte), x.length = 8 → tail.length = 7 →
    (forwardHash c (x ++ tail) = hash ↔
      byteAt (partialForwardHash c x 15 ^^^ invertTrailingMix c hash) 7 = 0 ∧
        tail = (bytes8 (partialForwardHash c x 15 ^^^ invertTrailingMix c hash)).take 7)

/-- R108: the forward hash is the hash of the full chunks, the tail absorbed if there is one, then finalized. -/
def Obligations.ForwardHashSplitsAtTheLastFullChunk : Prop :=
  ∀ (c : Params) (b : List Byte),
    (b.length % 8 = 0 →
      forwardHash c b = finalize c (partialForwardHash c (b.take (8 * (b.length / 8))) (BitVec.ofNat 64 b.length))) ∧
    (0 < b.length % 8 →
      forwardHash c b =
        finalize c (absorb c (partialForwardHash c (b.take (8 * (b.length / 8))) (BitVec.ofNat 64 b.length))
          (packTail (tailBytes b))))

/-- R109: streaming a message through the accumulator, word by word, as the host would issue it, leaves and answers its forward
hash; with `HREAD` in place of the tail and the finalization it leaves and answers the hash of the full chunks. Either way nothing else
changes. -/
def Obligations.StreamingComputesTheForwardHash : Prop :=
  ∀ (s : State) (b : List Byte) (rest : List CommandWord), s.fault = false →
    let hold := encode (.hinit (BitVec.ofNat 64 b.length)) :: (chunkWords b).map (fun k => encode (.hchunk k))
    let finish := (if b.length % 8 = 0 then [] else [encode (.htail (packTail (tailBytes b)))]) ++ [encode .hfin]
    (s.cmds = hold ++ finish ++ rest →
      ∃ t, RunsTo s (hold ++ finish).length t ∧
        t = { s with h := forwardHash s.cfg b, hv := true, cmds := rest, rsps := t.rsps } ∧
        t.rsps.head? = some (rsp .ok (forwardHash s.cfg b))) ∧
    (s.cmds = hold ++ [encode .hread] ++ rest →
      let p := partialForwardHash s.cfg (b.take (8 * (b.length / 8))) (BitVec.ofNat 64 b.length)
      ∃ t, RunsTo s (hold.length + 1) t ∧
        t = { s with h := p, hv := true, cmds := rest, rsps := t.rsps } ∧ t.rsps.head? = some (rsp .ok p))

/-! ### HashCore: the commands (40_hashcore.md section 4) -/

/-- R110: `HINIT len` loads `len * M` and sets `HV`, whatever they held. -/
def Obligations.HinitLoadsLengthTimesMultiplier : Prop :=
  ∀ (len : BitVec 64) (s : State), s.fault = false →
    encode (.hinit len) = (0x01 : BitVec 8) ++ len ∧
    exec (.hinit len) s =
      .next { s with h := len * s.cfg.m, hv := true, rsps := ((0x00 : BitVec 8) ++ (0 : BitVec 64)) :: s.rsps }

/-- R111, R112, R113, R114: with `HV = 1` the streaming commands write `H` as their rules say and answer it, and `HREAD` only
answers it; with `HV = 0` each raises `E_NOINIT`. The chunk mix is written out in both readings (R94). -/
def Obligations.StreamingCommandsUpdateTheAccumulator : Prop :=
  ∀ (v : BitVec 64) (s : State), s.fault = false →
    (encode (.hchunk v) = (0x02 : BitVec 8) ++ v ∧ encode (.htail v) = (0x03 : BitVec 8) ++ v ∧
      encode .hfin = (0x04 : BitVec 8) ++ (0 : BitVec 64) ∧ encode .hread = (0x05 : BitVec 8) ++ (0 : BitVec 64)) ∧
    (s.hv = false → ∀ i ∈ [Instr.hchunk v, .htail v, .hfin, .hread],
      exec i s = .next { s with rsps := ((0x04 : BitVec 8) ++ (0 : BitVec 64)) :: s.rsps }) ∧
    (s.hv = true →
      let answers (h : Word) : Host.Outcome State Fault Refusal :=
        .next { s with h := h, rsps := ((0x00 : BitVec 8) ++ h) :: s.rsps }
      (s.cfg.chunkMix = .literal →
        exec (.hchunk v) s = answers ((s.h ^^^ (((v * s.cfg.m) ^^^ (v >>> 47)) * s.cfg.m)) * s.cfg.m)) ∧
      (s.cfg.chunkMix = .sequential →
        exec (.hchunk v) s =
          answers ((s.h ^^^ (((v * s.cfg.m) ^^^ ((v * s.cfg.m) >>> 47)) * s.cfg.m)) * s.cfg.m)) ∧
      exec (.htail v) s = answers ((s.h ^^^ v) * s.cfg.m) ∧
      exec .hfin s =
        answers (((s.h ^^^ (s.h >>> 47)) * s.cfg.m) ^^^ (((s.h ^^^ (s.h >>> 47)) * s.cfg.m) >>> 47)) ∧
      exec .hread s = answers s.h)

/-- R115: `FHASH n` answers the forward hash of `MSG[0..n-1]`, byte by byte, and changes nothing; beyond `MSG_CAP` it raises
`E_RANGE`; `FHASH 0` answers 0. -/
def Obligations.FhashAnswersTheHashOfTheBuffer : Prop :=
  ∀ (n : BitVec 32) (s : State), s.fault = false →
    encode (.fhash n) = (0x06 : BitVec 8) ++ n.setWidth 64 ∧
    (s.cfg.msgCap.toNat < n.toNat →
      exec (.fhash n) s = .next { s with rsps := ((0x06 : BitVec 8) ++ (0 : BitVec 64)) :: s.rsps }) ∧
    (n.toNat ≤ s.cfg.msgCap.toNat → ∀ b : List Byte, b.length = n.toNat →
      (∀ a, a < n.toNat → b[a]? = some (memRead1 s a)) →
        exec (.fhash n) s = .next { s with rsps := ((0x00 : BitVec 8) ++ forwardHash s.cfg b) :: s.rsps }) ∧
    exec (.fhash 0) s = .next { s with rsps := ((0x00 : BitVec 8) ++ (0 : BitVec 64)) :: s.rsps }

/-- R116: `PHASH n, total` answers the hash of the full chunks of `MSG[0..n-1]` seeded with `total`, and changes nothing; outside
the precondition it raises `E_PRECOND`, else beyond `MSG_CAP` `E_RANGE`; `PHASH 0, total` answers `total * M`. -/
def Obligations.PhashAnswersTheHashOfTheChunks : Prop :=
  ∀ (n total : BitVec 32) (s : State), s.fault = false →
    encode (.phash n total) = (0x07 : BitVec 8) ++ (total ++ n) ∧
    (n.toNat % 8 ≠ 0 ∨ total.toNat < n.toNat →
      exec (.phash n total) s = .next { s with rsps := ((0x05 : BitVec 8) ++ (0 : BitVec 64)) :: s.rsps }) ∧
    (n.toNat % 8 = 0 → n.toNat ≤ total.toNat → s.cfg.msgCap.toNat < n.toNat →
      exec (.phash n total) s = .next { s with rsps := ((0x06 : BitVec 8) ++ (0 : BitVec 64)) :: s.rsps }) ∧
    (n.toNat % 8 = 0 → n.toNat ≤ total.toNat → n.toNat ≤ s.cfg.msgCap.toNat → ∀ b : List Byte, b.length = n.toNat →
      (∀ a, a < n.toNat → b[a]? = some (memRead1 s a)) →
        exec (.phash n total) s =
          .next { s with rsps := ((0x00 : BitVec 8) ++ partialForwardHash s.cfg b (total.setWidth 64)) :: s.rsps }) ∧
    exec (.phash 0 total) s =
      .next { s with rsps := ((0x00 : BitVec 8) ++ (total.setWidth 64 * s.cfg.m)) :: s.rsps }

/-- R117: `INVTM hash` answers the four-step inverse of R100 for every operand, changes nothing, and answers 0 for 0. -/
def Obligations.InvtmAnswersTheFourStepInverse : Prop :=
  ∀ (hash : BitVec 64) (s : State), s.fault = false →
    encode (.invtm hash) = (0x08 : BitVec 8) ++ hash ∧
    (let a := (hash ^^^ (hash >>> 47)) * s.cfg.minv
     exec (.invtm hash) s =
       .next { s with rsps := ((0x00 : BitVec 8) ++ ((a ^^^ (a >>> 47)) * s.cfg.minv)) :: s.rsps }) ∧
    exec (.invtm 0) s = .next { s with rsps := ((0x00 : BitVec 8) ++ (0 : BitVec 64)) :: s.rsps }

/-! ### The message buffer (41_msgbuf.md) -/

/-- R130: `MSETA addr` sets `MA` below `MSG_CAP` and raises `E_RANGE` from `MSG_CAP` on. -/
def Obligations.MsetaSetsTheAddressBelowTheCapacity : Prop :=
  ∀ (addr : BitVec 32) (s : State), s.fault = false →
    encode (.mseta addr) = (0x10 : BitVec 8) ++ addr.setWidth 64 ∧
    (s.cfg.msgCap.toNat ≤ addr.toNat →
      exec (.mseta addr) s = .next { s with rsps := ((0x06 : BitVec 8) ++ (0 : BitVec 64)) :: s.rsps }) ∧
    (addr.toNat < s.cfg.msgCap.toNat →
      exec (.mseta addr) s = .next { s with ma := addr, rsps := ((0x00 : BitVec 8) ++ (0 : BitVec 64)) :: s.rsps })

/-- R131: `MWR8 b` stores `b` at `MA`, every other byte reading as before, and `MA` moves on by one; at `MSG_CAP` it raises
`E_RANGE`. -/
def Obligations.Mwr8StoresOneByte : Prop :=
  ∀ (b : BitVec 8) (s : State), s.fault = false →
    encode (.mwr8 b) = (0x11 : BitVec 8) ++ b.setWidth 64 ∧
    (s.cfg.msgCap.toNat < s.ma.toNat + 1 →
      exec (.mwr8 b) s = .next { s with rsps := ((0x06 : BitVec 8) ++ (0 : BitVec 64)) :: s.rsps }) ∧
    (s.ma.toNat + 1 ≤ s.cfg.msgCap.toNat → Memory.wf s.msg = true →
      ∃ t, exec (.mwr8 b) s = .next t ∧
        t = { s with ma := t.ma, msg := t.msg, rsps := ((0x00 : BitVec 8) ++ (0 : BitVec 64)) :: s.rsps } ∧
        t.ma.toNat = s.ma.toNat + 1 ∧ Memory.wf t.msg = true ∧ memRead1 t s.ma.toNat = b ∧
        ∀ a, a ≠ s.ma.toNat → memRead1 t a = memRead1 s a)

/-- R132: `MWR64 data` stores byte `i` of `data` at `MA + i` for `i` in 0..7, every other byte reading as before, and `MA` moves on
by eight, from any `MA` with `MA + 8 <= MSG_CAP`; beyond, it raises `E_RANGE` and stores no byte. -/
def Obligations.Mwr64StoresEightBytes : Prop :=
  ∀ (data : BitVec 64) (s : State), s.fault = false →
    encode (.mwr64 data) = (0x12 : BitVec 8) ++ data ∧
    (s.cfg.msgCap.toNat < s.ma.toNat + 8 →
      exec (.mwr64 data) s = .next { s with rsps := ((0x06 : BitVec 8) ++ (0 : BitVec 64)) :: s.rsps }) ∧
    (s.ma.toNat + 8 ≤ s.cfg.msgCap.toNat → Memory.wf s.msg = true →
      ∃ t, exec (.mwr64 data) s = .next t ∧
        t = { s with ma := t.ma, msg := t.msg, rsps := ((0x00 : BitVec 8) ++ (0 : BitVec 64)) :: s.rsps } ∧
        t.ma.toNat = s.ma.toNat + 8 ∧ Memory.wf t.msg = true ∧
        (∀ i, i < 8 → memRead1 t (s.ma.toNat + i) = data.extractLsb' (8 * i) 8) ∧
        ∀ a, a < s.ma.toNat ∨ s.ma.toNat + 8 ≤ a → memRead1 t a = memRead1 s a)

/-- R133, R134: `MRD8` answers the byte at `MA`, zero-extended, and `MRD64` the word whose byte `i` is the byte at `MA + i`; `MA` moves
on by one or eight and nothing else changes; an access that leaves the buffer raises `E_RANGE`. -/
def Obligations.ReadsAnswerTheBytesAtTheAddress : Prop :=
  ∀ s : State, s.fault = false →
    encode .mrd8 = (0x13 : BitVec 8) ++ (0 : BitVec 64) ∧ encode .mrd64 = (0x14 : BitVec 8) ++ (0 : BitVec 64) ∧
    (s.cfg.msgCap.toNat < s.ma.toNat + 1 →
      exec .mrd8 s = .next { s with rsps := ((0x06 : BitVec 8) ++ (0 : BitVec 64)) :: s.rsps }) ∧
    (s.ma.toNat + 1 ≤ s.cfg.msgCap.toNat →
      exec .mrd8 s = .next { s with
        ma := BitVec.ofNat 32 (s.ma.toNat + 1)
        rsps := ((0x00 : BitVec 8) ++ (memRead1 s s.ma.toNat).setWidth 64) :: s.rsps }) ∧
    (s.cfg.msgCap.toNat < s.ma.toNat + 8 →
      exec .mrd64 s = .next { s with rsps := ((0x06 : BitVec 8) ++ (0 : BitVec 64)) :: s.rsps }) ∧
    (s.ma.toNat + 8 ≤ s.cfg.msgCap.toNat →
      ∃ d : Word, exec .mrd64 s = .next { s with
          ma := BitVec.ofNat 32 (s.ma.toNat + 8)
          rsps := ((0x00 : BitVec 8) ++ d) :: s.rsps } ∧
        ∀ i, i < 8 → d.extractLsb' (8 * i) 8 = memRead1 s (s.ma.toNat + i))

/-- What `MWR64` stored, `MRD64` at the same address reads back: a word goes through the buffer unchanged (20_memory.md section 2). -/
def Obligations.StoredWordIsReadBack : Prop :=
  ∀ (addr : BitVec 32) (data : BitVec 64) (s : State), s.fault = false → Memory.wf s.msg = true →
    addr.toNat + 8 ≤ s.cfg.msgCap.toNat →
    s.cmds = [encode (.mseta addr), encode (.mwr64 data), encode (.mseta addr), encode .mrd64] →
      ∃ t, RunsTo s 4 t ∧ t.rsps.head? = some ((0x00 : BitVec 8) ++ data) ∧ t.ma.toNat = addr.toNat + 8 ∧
        ∀ a, a < addr.toNat ∨ addr.toNat + 8 ≤ a → memRead1 t a = memRead1 s a

/-! ### The alphabet (42_alphabet.md) -/

/-- R143, R145: `ARST` moves the cursor to 0 and nothing else; `ACHK b` answers 1 exactly for the bytes 32 to 126 without 92, else 0,
and changes nothing. -/
def Obligations.ArstRestartsAndAchkTestsMembership : Prop :=
  ∀ (b : BitVec 8) (s : State), s.fault = false →
    encode .arst = (0x20 : BitVec 8) ++ (0 : BitVec 64) ∧ encode (.achk b) = (0x22 : BitVec 8) ++ b.setWidth 64 ∧
    exec .arst s = .next { s with ac := 0, rsps := ((0x00 : BitVec 8) ++ (0 : BitVec 64)) :: s.rsps } ∧
    (32 ≤ b.toNat → b.toNat ≤ 126 → b.toNat ≠ 92 →
      exec (.achk b) s = .next { s with rsps := ((0x00 : BitVec 8) ++ (1 : BitVec 64)) :: s.rsps }) ∧
    (b.toNat < 32 ∨ 126 < b.toNat ∨ b.toNat = 92 →
      exec (.achk b) s = .next { s with rsps := ((0x00 : BitVec 8) ++ (0 : BitVec 64)) :: s.rsps })

/-- R144: below 94 `ANEXT` answers the alphabet byte of the cursor and moves it on by one; at 94 (and above, where no run gets) it
raises `E_END` and the cursor stays. -/
def Obligations.AnextAnswersTheNextAlphabetByte : Prop :=
  ∀ s : State, s.fault = false →
    encode .anext = (0x21 : BitVec 8) ++ (0 : BitVec 64) ∧
    (94 ≤ s.ac.toNat →
      exec .anext s = .next { s with rsps := ((0x09 : BitVec 8) ++ (0 : BitVec 64)) :: s.rsps }) ∧
    (s.ac.toNat < 94 →
      exec .anext s = .next { s with
        ac := BitVec.ofNat 7 (s.ac.toNat + 1)
        rsps := ((0x00 : BitVec 8) ++
          BitVec.ofNat 64 (if s.ac.toNat ≤ 59 then 32 + s.ac.toNat else 33 + s.ac.toNat)) :: s.rsps })

/-- R144, derived sentence: after `ARST`, ninety-four `ANEXT` answer the alphabet in ascending order and the ninety-fifth
answers `E_END`, whatever the cursor held; nothing else changes. -/
def Obligations.AlphabetIsDeliveredInOrderThenEnds : Prop :=
  ∀ (s : State) (rest : List CommandWord), s.fault = false →
    s.cmds = encode .arst :: List.replicate 95 (encode .anext) ++ rest →
      RunsTo s 96 { s with
        ac := 94, cmds := rest
        rsps := ((0x09 : BitVec 8) ++ (0 : BitVec 64)) ::
          (alphabet.map fun b => (0x00 : BitVec 8) ++ b.setWidth 64).reverse ++
            ((0x00 : BitVec 8) ++ (0 : BitVec 64)) :: s.rsps }

/-! ### The target index (43_targetindex.md) -/

/-- R153: `TINS hash`. While a search is in progress it raises `E_BUSY`; a hash an allocated slot holds, pending or not, answers 0;
a new hash into a full store raises `E_FULL`; otherwise slot `TN` becomes the hash, its four-step inverse, pending, and it answers
1. -/
def Obligations.TinsInsertsANewHashOnce : Prop :=
  ∀ (hash : BitVec 64) (s : State), s.fault = false →
    encode (.tins hash) = (0x30 : BitVec 8) ++ hash ∧
    (s.run = true → exec (.tins hash) s = .next { s with rsps := ((0x02 : BitVec 8) ++ (0 : BitVec 64)) :: s.rsps }) ∧
    (s.run = false → (∃ i sl, i < s.tn.toNat ∧ s.tgt[i]? = some sl ∧ sl.hash = hash) →
      exec (.tins hash) s = .next { s with rsps := ((0x00 : BitVec 8) ++ (0 : BitVec 64)) :: s.rsps }) ∧
    (s.run = false → (∀ i sl, i < s.tn.toNat → s.tgt[i]? = some sl → sl.hash ≠ hash) → s.tn = s.cfg.tgtCap →
      exec (.tins hash) s = .next { s with rsps := ((0x07 : BitVec 8) ++ (0 : BitVec 64)) :: s.rsps }) ∧
    (s.run = false → (∀ i sl, i < s.tn.toNat → s.tgt[i]? = some sl → sl.hash ≠ hash) → s.tn ≠ s.cfg.tgtCap →
      exec (.tins hash) s = .next { s with
        tgt := s.tgt.set s.tn.toNat ⟨hash, invertTrailingMix s.cfg hash, true⟩
        tn := s.tn + 1
        rsps := ((0x00 : BitVec 8) ++ (1 : BitVec 64)) :: s.rsps })

/-- R157: two `TINS` of one hash raise `Pending()` by 1 if the hash was new and by 0 if it was known, never by 2. -/
def Obligations.InsertingTwiceCountsOnce : Prop :=
  ∀ (hash : BitVec 64) (s t u : State), s.Inv → s.run = false → s.fault = false → s.tn.toNat < s.cfg.tgtCap.toNat →
    exec (.tins hash) s = .next t → exec (.tins hash) t = .next u →
      u.pendingCount = s.pendingCount + (if s.knows hash then 0 else 1)

/-- R154, R155, R156: `TSIZE` answers the number of pending slots and `TPROBE p` the number of those whose trim agrees with `p`
under the bucket mask, both changing nothing; `TCLR` empties the index, the deduplication set and the result FIFO and clears `FE`
and `FX`, or raises `E_BUSY` while a search is in progress. -/
def Obligations.IndexIsCountedProbedAndCleared : Prop :=
  ∀ (p : BitVec 64) (s : State), s.fault = false →
    (encode .tsize = (0x31 : BitVec 8) ++ (0 : BitVec 64) ∧ encode .tclr = (0x32 : BitVec 8) ++ (0 : BitVec 64) ∧
      encode (.tprobe p) = (0x33 : BitVec 8) ++ p) ∧
    exec .tsize s = .next { s with
      rsps := ((0x00 : BitVec 8) ++
        BitVec.ofNat 64 ((s.tgt.take s.tn.toNat).filter fun t => t.pend).length) :: s.rsps } ∧
    exec (.tprobe p) s = .next { s with
      rsps := ((0x00 : BitVec 8) ++ BitVec.ofNat 64
        ((s.tgt.take s.tn.toNat).filter fun t =>
          t.pend && (t.trim &&& 0xFF80808080808080 == p &&& 0xFF80808080808080)).length) :: s.rsps } ∧
    (s.run = true → exec .tclr s = .next { s with rsps := ((0x02 : BitVec 8) ++ (0 : BitVec 64)) :: s.rsps }) ∧
    (s.run = false → exec .tclr s = .next { s with
      tn := 0, rn := 0, fe := false, fx := false
      rsps := ((0x00 : BitVec 8) ++ (0 : BitVec 64)) :: s.rsps })

/-- R152: masking is sound. A valid tail word has signature 0, so a pair with a valid candidate agrees in signature and no valid
candidate is pruned; of every key with an alphabet suffix, the hash of the leading part and the trim of the key's hash agree in
signature. Agreeing in signature says only that byte 7 of the candidate word is 0 and the other bytes are below 128; it does not
make the candidate valid. -/
def Obligations.SignatureFilterPrunesNoValidCandidate : Prop :=
  (∀ c : Word, validTail c = true → sig c = 0) ∧
  (∀ p trim : Word, validTail (p ^^^ trim) = true → sig p = sig trim) ∧
  (∀ c : Params, c.MinvCorrect → ∀ x tail : List Byte, x.length = 8 → tail.length = 7 → (∀ b ∈ tail, inAlpha b = true) →
    sig (partialForwardHash c x 15) = sig (invertTrailingMix c (forwardHash c (x ++ tail)))) ∧
  (∀ p trim : Word, sig p = sig trim ↔
    byteAt (p ^^^ trim) 7 = 0 ∧ ∀ j, j < 7 → (byteAt (p ^^^ trim) j).toNat < 128) ∧
  ∃ p trim : Word, sig p = sig trim ∧ validTail (p ^^^ trim) = false

/-- R27, R33: while a slot is allocated its hash and trim never change and its `pend` bit never goes back to 1; only `TCLR` and
`RESET` deallocate. -/
def Obligations.AllocatedSlotsOnlyLosePend : Prop :=
  ∀ (i : Instr) (s t : State), exec i s = .next t → i ≠ .tclr → i ≠ .reset →
    (t.tn = s.tn ∨ (t.tn = s.tn + 1 ∧ ∃ hash, i = .tins hash)) ∧
    ∀ (j : Nat) (sl : Slot), j < s.tn.toNat → s.tgt[j]? = some sl →
      ∃ sl', t.tgt[j]? = some sl' ∧ sl'.hash = sl.hash ∧ sl'.trim = sl.trim ∧ (sl'.pend = true → sl.pend = true)

/-! ### The searcher (44_searcher.md) -/

/-- R171, R173: on legal digits `OdoInc` gives the legal digits with the next number; it has no next exactly when every digit is 93;
and the number orders the odometers as their bytes are ordered lexicographically. -/
def Obligations.OdometerCountsInLexicographicOrder : Prop :=
  (∀ o : Odometer, o.legal →
    (∀ o', o.next? = some o' → o'.legal ∧ o'.index = o.index + 1) ∧
    (o.next? = none ↔ o.digits = List.replicate 8 93) ∧ o.index < 94 ^ 8) ∧
  ∀ o o' : Odometer, o.legal → o'.legal →
    (o.index < o'.index ↔ List.Lex (fun a b : Byte => a.toNat < b.toNat) o.bytes o'.bytes)

/-- R178, R181: `SSTART` raises `E_BUSY` while a search is in progress; otherwise it puts the odometer on the first of the
enumeration, clears `PCNT` and the result FIFO, answers the number of pending slots, and begins a search if there is one, else ends
it at once with `FE`. `SSTOP` raises `E_NOTRUN` with no search in progress, else clears `RUN`, `FE` and `FX` and keeps the rest. -/
def Obligations.SstartBeginsAndSstopAbandonsASearch : Prop :=
  ∀ s : State, s.fault = false →
    (encode .sstart = (0x40 : BitVec 8) ++ (0 : BitVec 64) ∧ encode .sstop = (0x42 : BitVec 8) ++ (0 : BitVec 64)) ∧
    (s.run = true → exec .sstart s = .next { s with rsps := ((0x02 : BitVec 8) ++ (0 : BitVec 64)) :: s.rsps }) ∧
    (s.run = false → 0 < s.pendingCount → exec .sstart s = .next { s with
      dig := ⟨0, 0, 0, 0, 0, 0, 0, 0⟩, pcnt := 0, rn := 0, run := true, fe := false, fx := false
      rsps := ((0x00 : BitVec 8) ++ BitVec.ofNat 64 s.pendingCount) :: s.rsps }) ∧
    (s.run = false → s.pendingCount = 0 → exec .sstart s = .next { s with
      dig := ⟨0, 0, 0, 0, 0, 0, 0, 0⟩, pcnt := 0, rn := 0, run := false, fe := true, fx := false
      rsps := ((0x00 : BitVec 8) ++ (0 : BitVec 64)) :: s.rsps }) ∧
    (s.run = false → exec .sstop s = .next { s with rsps := ((0x03 : BitVec 8) ++ (0 : BitVec 64)) :: s.rsps }) ∧
    (s.run = true → exec .sstop s = .next { s with
      run := false, fe := false, fx := false
      rsps := ((0x00 : BitVec 8) ++ (0 : BitVec 64)) :: s.rsps })

/-- R174, R176, R177, with a correct inverse: one search step. The pending slots whose candidate is a valid tail word, and only
those, are resolved; each leaves its record, in slot order; one more prefix is counted; and the search ends with `FE` if nothing is
pending any more, else with `FX` on the last prefix, else moves to the next one. -/
def Obligations.OneSearchStepResolvesExactlyTheValidCandidates : Prop :=
  ∀ s : State, s.Inv → s.cfg.MinvCorrect → s.run = true →
    let x := s.dig.bytes
    let p := partialForwardHash s.cfg x 15
    let hit (sl : Slot) : Bool := sl.pend && validTail (p ^^^ sl.trim)
    let resolve (sl : Slot) : Slot := { sl with pend := sl.pend && !hit sl }
    ∃ t, exec (.srun 1) s = .next t ∧
      t = { s with
        tgt := (s.tgt.take s.tn.toNat).map resolve ++ s.tgt.drop s.tn.toNat
        pcnt := s.pcnt + 1, res := t.res, rn := t.rn, dig := t.dig, run := t.run, fe := t.fe, fx := t.fx
        rsps := ((0x00 : BitVec 8) ++ (1 : BitVec 64)) :: s.rsps } ∧
      t.records = s.records ++ (s.allocated.filter hit).map (fun sl =>
        ⟨sl.hash, x ++ (bytes8 (p ^^^ sl.trim)).take 7 ++ [0]⟩) ∧
      (if t.pendingCount = 0 then t.run = false ∧ t.fe = true ∧ t.fx = false ∧ t.dig = s.dig
       else if s.dig.digits = List.replicate 8 93 then t.run = false ∧ t.fe = false ∧ t.fx = true ∧ t.dig = s.dig
       else t.run = true ∧ t.fe = false ∧ t.fx = false ∧ t.dig.index = s.dig.index + 1)

/-- R180, with a correct inverse: `SRUN n` in a search completes with `OK`, answers the number of steps it executed, at most `n`, and
fewer only if the search ended; with no search in progress it raises `E_NOTRUN`; `SRUN 0` does nothing. Of the state it touches
only what R177 names. -/
def Obligations.SrunExecutesUpToItsCount : Prop :=
  ∀ (n : BitVec 64) (s : State), s.fault = false →
    encode (.srun n) = (0x41 : BitVec 8) ++ n ∧
    (s.run = false → exec (.srun n) s = .next { s with rsps := ((0x03 : BitVec 8) ++ (0 : BitVec 64)) :: s.rsps }) ∧
    (s.run = true → exec (.srun 0) s = .next { s with rsps := ((0x00 : BitVec 8) ++ (0 : BitVec 64)) :: s.rsps }) ∧
    (s.run = true → s.Inv → s.cfg.MinvCorrect →
      ∃ (t : State) (c : Word), exec (.srun n) s = .next t ∧
        t = { s with
          tgt := t.tgt, dig := t.dig, run := t.run, fe := t.fe, fx := t.fx, pcnt := t.pcnt, res := t.res, rn := t.rn
          rsps := ((0x00 : BitVec 8) ++ c) :: s.rsps } ∧
        c.toNat ≤ n.toNat ∧ t.pcnt.toNat = s.pcnt.toNat + c.toNat ∧ (c.toNat < n.toNat → t.run = false))

/-- R180: several `SRUN` continue where the previous one stopped. While the search is in progress after `SRUN n`, a further
`SRUN k` ends in the block one `SRUN (n+k)` ends in, and their counts add up; once it has ended, `SRUN (n+k)` is `SRUN n`. -/
def Obligations.SplittingARunChangesNothing : Prop :=
  ∀ (n k : BitVec 64) (s t : State), s.fault = false → s.run = true → n.toNat + k.toNat < 2 ^ 64 →
    exec (.srun n) s = .next t →
      (t.run = false → exec (.srun (n + k)) s = .next t) ∧
      (t.run = true → ∃ (u v : State) (st : Status) (d : Word),
        exec (.srun k) t = .next u ∧ exec (.srun (n + k)) s = .next v ∧
        u.rsps = rsp st d :: t.rsps ∧ v.rsps = rsp st (n + d) :: s.rsps ∧ v = { u with rsps := v.rsps })

/-- R179: while a search is in progress, `TINS`, `TCLR` and `SSTART` raise `E_BUSY`, and no command but `RESET` changes the target
store except `SRUN`, by clearing `pend` bits. -/
def Obligations.IndexIsOwnedByTheSearch : Prop :=
  ∀ (i : Instr) (s t : State), s.run = true → s.fault = false → exec i s = .next t →
    ((i = .tclr ∨ i = .sstart ∨ ∃ hash, i = .tins hash) →
      t = { s with rsps := ((0x02 : BitVec 8) ++ (0 : BitVec 64)) :: s.rsps }) ∧
    (i ≠ .reset → t.tn = s.tn ∧
      (t.tgt = s.tgt ∨ (∃ n, i = .srun n) ∧
        List.Forall₂ (fun a b => b.hash = a.hash ∧ b.trim = a.trim ∧ (b.pend = true → a.pend = true)) s.tgt t.tgt))

/-- R175, R229, 91_not_in_source.md N23: with a correct inverse the consistency check never fires. No step sets the fault latch. -/
def Obligations.CorrectInverseNeverFaults : Prop :=
  ∀ s t : State, s.Inv → s.cfg.MinvCorrect → step s = .next t → t.fault = true → s.fault = true

/-- R185: every record a command adds to the FIFO is a key of fifteen alphabet bytes that hashes to its hash, ends in the zero byte,
and belongs to a slot that was pending before and is resolved after. -/
def Obligations.EveryNewRecordIsAPreimage : Prop :=
  ∀ (i : Instr) (s t : State), s.Inv → exec i s = .next t → ∀ r ∈ t.records,
    r ∈ s.records ∨
      (∃ n, i = .srun n) ∧ forwardHash t.cfg (r.key.take 15) = r.hash ∧ (∀ b ∈ r.key.take 15, inAlpha b = true) ∧
        r.key.length = 16 ∧ r.key[15]? = some 0 ∧
        ∃ (j : Nat) (sl : Slot), j < s.tn.toNat ∧ s.tgt[j]? = some sl ∧ sl.hash = r.hash ∧ sl.pend = true ∧
          t.tgt[j]? = some { sl with pend := false }

/-- R184: a search ends. With a correct inverse, `SRUN n` with `n >= 94^8` ends the search, with `FE` and nothing pending, or with
`FX`, something pending, and all 94^8 prefixes examined. -/
def Obligations.SearchEndsWithinAllPrefixes : Prop :=
  ∀ (n : BitVec 64) (s t : State), s.Inv → s.cfg.MinvCorrect → s.run = true → 94 ^ 8 ≤ n.toNat →
    exec (.srun n) s = .next t →
      t.run = false ∧ t.fault = false ∧
        ((t.fe = true ∧ t.fx = false ∧ t.pendingCount = 0 ∧ t.pcnt.toNat ≤ 94 ^ 8) ∨
          (t.fe = false ∧ t.fx = true ∧ 0 < t.pendingCount ∧ t.pcnt.toNat = 94 ^ 8))

/-- R186: completeness of a complete search (`SSTART`, then `SRUN n` with `n >= 94^8`). For every slot pending at `SSTART`: if some
prefix completes it, exactly one record has its hash, its key is made from the least such prefix, and the slot is resolved; if none
does, no record has its hash and it is still pending. -/
def Obligations.CompleteSearchFindsTheLeastPreimage : Prop :=
  ∀ (n : BitVec 64) (s u t : State), s.Inv → s.cfg.MinvCorrect → s.run = false → s.fault = false → 94 ^ 8 ≤ n.toNat →
    exec .sstart s = .next u → u.run = true → exec (.srun n) u = .next t →
      ∀ (j : Nat) (sl : Slot), j < s.tn.toNat → s.tgt[j]? = some sl → sl.pend = true →
        (∀ o : Odometer, sl.FirstHit s.cfg o →
          t.tgt[j]? = some { sl with pend := false } ∧
          t.records.filter (fun r => r.hash == sl.hash) =
            [⟨sl.hash, o.bytes ++ (bytes8 (o.leadHash s.cfg ^^^ sl.trim)).take 7 ++ [0]⟩]) ∧
        ((∀ o : Odometer, o.legal → ¬ sl.hitBy s.cfg o) →
          t.tgt[j]? = some sl ∧ t.records.filter (fun r => r.hash == sl.hash) = [])

/-- R182, R183: a complete search produces, in FIFO order, the result sequence of the document's own search over every string of
eight alphabet bytes in lexicographic order, run on an index that holds the slots pending at `SSTART`; and what the document's index
is left with, bucket by bucket, is what the store is left with. -/
def Obligations.CompleteSearchIsTheDocumentsSearch : Prop :=
  ∀ (n : BitVec 64) (s u t : State), s.Inv → s.cfg.MinvCorrect → s.run = false → s.fault = false → 94 ^ 8 ≤ n.toNat →
    exec .sstart s = .next u → u.run = true → exec (.srun n) u = .next t →
      let found := docSearch s.cfg (alphabetStrings 8) (DocIndex.ofSlots (s.allocated.filter fun sl => sl.pend))
      t.records = found.1.map (fun e => ⟨e.1, e.2 ++ [0]⟩) ∧
      ∀ g : Word, found.2.bucket g = (t.bucket g).map fun sl => (sl.hash, sl.trim)

/-- R177, R260: the search neither reads nor writes `H`, `HV`, `MSG`, `MA` and `AC`. Two states that differ in those only are taken by
the search commands to states that differ in those only, as before, and get the same responses. -/
def Obligations.SearchIsIndependentOfTheOtherUnits : Prop :=
  ∀ (i : Instr) (s t : State) (h : Word) (hv : Bool) (ma : BitVec 32) (msg : Memory) (ac : BitVec 7),
    (i = .sstart ∨ i = .sstop ∨ ∃ n, i = .srun n) → exec i s = .next t →
      exec i { s with h := h, hv := hv, ma := ma, msg := msg, ac := ac } =
        .next { t with h := h, hv := hv, ma := ma, msg := msg, ac := ac }

/-! ### The result FIFO (45_results.md) -/

/-- R201: `RRD sel` answers the hash, the first eight key bytes or the last eight key bytes of the head record, as a little-endian
word, byte by byte, and changes nothing; selector 3 raises `E_RANGE`, and an empty FIFO `E_EMPTY`. -/
def Obligations.RrdAnswersAWordOfTheHead : Prop :=
  ∀ s : State, s.fault = false →
    (∀ sel : BitVec 2, encode (.rrd sel) = (0x48 : BitVec 8) ++ sel.setWidth 64) ∧
    exec (.rrd 3) s = .next { s with rsps := ((0x06 : BitVec 8) ++ (0 : BitVec 64)) :: s.rsps } ∧
    (s.rn = 0 → ∀ sel : BitVec 2, sel ≠ 3 →
      exec (.rrd sel) s = .next { s with rsps := ((0x08 : BitVec 8) ++ (0 : BitVec 64)) :: s.rsps }) ∧
    (s.rn ≠ 0 → ∀ r rest, s.res = r :: rest → r.key.length = 16 →
      exec (.rrd 0) s = .next { s with rsps := ((0x00 : BitVec 8) ++ r.hash) :: s.rsps } ∧
      ∃ klo khi : Word,
        exec (.rrd 1) s = .next { s with rsps := ((0x00 : BitVec 8) ++ klo) :: s.rsps } ∧
        exec (.rrd 2) s = .next { s with rsps := ((0x00 : BitVec 8) ++ khi) :: s.rsps } ∧
        (∀ j, j < 8 → r.key[j]? = some (klo.extractLsb' (8 * j) 8) ∧
          r.key[8 + j]? = some (khi.extractLsb' (8 * j) 8)) ∧
        (r.key[15]? = some 0 → khi.extractLsb' 56 8 = 0))

/-- R202: `RPOP` removes the head record, the others keeping their order, and touches nothing but the FIFO; on an empty FIFO it raises
`E_EMPTY`. -/
def Obligations.RpopRemovesTheHead : Prop :=
  ∀ s : State, s.fault = false →
    encode .rpop = (0x49 : BitVec 8) ++ (0 : BitVec 64) ∧
    (s.rn = 0 → exec .rpop s = .next { s with rsps := ((0x08 : BitVec 8) ++ (0 : BitVec 64)) :: s.rsps }) ∧
    (s.rn ≠ 0 → s.rn.toNat ≤ s.res.length →
      ∃ t, exec .rpop s = .next t ∧
        t = { s with res := t.res, rn := s.rn - 1, rsps := ((0x00 : BitVec 8) ++ (0 : BitVec 64)) :: s.rsps } ∧
        t.records = s.records.tail ∧ t.res.length = s.res.length ∧ t.res.drop (s.rn.toNat - 1) = s.res.drop (s.rn.toNat - 1))

/-- R203: the host's loop `RRD 0`, `RRD 1`, `RRD 2`, `RPOP`, once for each record, delivers every record once, in FIFO order, and
leaves the FIFO empty. -/
def Obligations.ReadingOutDeliversEveryRecordInOrder : Prop :=
  ∀ (s : State) (rest : List CommandWord), s.fault = false → s.rn.toNat ≤ s.res.length →
    s.cmds = (List.replicate s.rn.toNat [encode (.rrd 0), encode (.rrd 1), encode (.rrd 2), encode .rpop]).flatten ++ rest →
      ∃ t, RunsTo s (4 * s.rn.toNat) t ∧ t = { s with res := t.res, rn := 0, cmds := rest, rsps := t.rsps } ∧
        t.rsps = (s.records.flatMap fun r =>
          [rsp .ok r.hash, rsp .ok (le64 (r.key.take 8)), rsp .ok (le64 (r.key.drop 8)), rsp .ok 0]).reverse ++ s.rsps

/-! ### The system commands, the registers, reset (46_system.md, 10_state.md, 70_reset_and_hazards.md) -/

/-- R210: `NOP` answers `OK`, 0 in every state, the latch set or not, and changes nothing; it is the all-zero word. -/
def Obligations.NopDoesNothing : Prop :=
  ∀ s : State, encode .nop = 0 ∧
    exec .nop s = .next { s with rsps := ((0x00 : BitVec 8) ++ (0 : BitVec 64)) :: s.rsps }

/-- R31, R211: `CRD idx` answers the register of the index in every state and changes nothing; an index above 0x0C raises
`E_RANGE`. -/
def Obligations.CrdAnswersTheRegister : Prop :=
  ∀ s : State,
    let answers (v : Word) : Host.Outcome State Fault Refusal := .next { s with rsps := ((0x00 : BitVec 8) ++ v) :: s.rsps }
    (∃ w : Word, exec (.crd 0x00) s = answers w ∧
      w.getLsbD 0 = s.run ∧ w.getLsbD 1 = s.fe ∧ w.getLsbD 2 = s.fx ∧ w.getLsbD 3 = s.hv ∧
      w.getLsbD 4 = decide (0 < s.rn.toNat) ∧ w.getLsbD 5 = decide (0 < s.pendingCount) ∧ w.getLsbD 6 = s.fault ∧
      w.getLsbD 7 = decide (s.cfg.chunkMix = .sequential) ∧ ∀ k, 8 ≤ k → w.getLsbD k = false) ∧
    exec (.crd 0x01) s = answers s.cfg.m ∧ exec (.crd 0x02) s = answers s.cfg.minv ∧
    exec (.crd 0x03) s = answers 47 ∧ exec (.crd 0x04) s = answers 0xFF80808080808080 ∧
    exec (.crd 0x05) s = answers (s.cfg.msgCap ++ s.cfg.tgtCap) ∧
    exec (.crd 0x06) s = answers (BitVec.ofNat 64 s.pendingCount) ∧
    exec (.crd 0x07) s = answers (s.tn.setWidth 64) ∧ exec (.crd 0x08) s = answers (s.rn.setWidth 64) ∧
    exec (.crd 0x09) s = answers (le64 (s.dig.digits.map alpha)) ∧ exec (.crd 0x0A) s = answers s.pcnt ∧
    exec (.crd 0x0B) s = answers (s.ma.setWidth 64) ∧ exec (.crd 0x0C) s = answers (s.ac.setWidth 64) ∧
    ∀ idx : BitVec 8, encode (.crd idx) = (0xF0 : BitVec 8) ++ idx.setWidth 64 ∧ (0x0C < idx.toNat →
      exec (.crd idx) s = .next { s with rsps := ((0x06 : BitVec 8) ++ (0 : BitVec 64)) :: s.rsps })

/-- R36, R212, R250: `RESET` in every state, the latch set or not, a search in progress or not, gives every element its reset value.
The parameters are no elements of state (R11, R250) and stay. That the waiting words and the responses already given stay too, the
answer to `RESET` put before them, is the model's own choice (log entry 1). -/
def Obligations.ResetGivesEveryElementItsResetValue : Prop :=
  ∀ s : State, encode .reset = (0xFF : BitVec 8) ++ (0 : BitVec 64) ∧ exec .reset s = .next
    { cfg := s.cfg, h := 0, hv := false, ma := 0, msg := [], ac := 0
      tgt := List.replicate s.cfg.tgtCap.toNat ⟨0, 0, false⟩, tn := 0, dig := ⟨0, 0, 0, 0, 0, 0, 0, 0⟩
      run := false, fe := false, fx := false, fault := false, pcnt := 0
      res := List.replicate s.cfg.tgtCap.toNat ⟨0, List.replicate 16 0⟩, rn := 0
      cmds := s.cmds, rsps := ((0x00 : BitVec 8) ++ (0 : BitVec 64)) :: s.rsps }

/-- R252: what the first command after the reset of any instance sees. -/
def Obligations.FirstCommandsAfterReset : Prop :=
  ∀ c : Params, 16 ≤ c.msgCap.toNat →
    let s := State.resetWith c
    let answers (i : Instr) (r : ResponseWord) : Prop := ∃ t, exec i s = .next t ∧ t.rsps = [r]
    answers (.crd 0x00) ((0x00 : BitVec 8) ++ (if c.chunkMix = .literal then (0 : BitVec 64) else 0x80)) ∧
    answers .tsize ((0x00 : BitVec 8) ++ (0 : BitVec 64)) ∧ answers .hread ((0x04 : BitVec 8) ++ (0 : BitVec 64)) ∧
    (∀ n, answers (.srun n) ((0x03 : BitVec 8) ++ (0 : BitVec 64))) ∧
    answers .sstop ((0x03 : BitVec 8) ++ (0 : BitVec 64)) ∧
    (∀ sel, sel ≠ 3 → answers (.rrd sel) ((0x08 : BitVec 8) ++ (0 : BitVec 64))) ∧
    answers .rpop ((0x08 : BitVec 8) ++ (0 : BitVec 64)) ∧ answers .anext ((0x00 : BitVec 8) ++ (32 : BitVec 64)) ∧
    answers (.fhash 0) ((0x00 : BitVec 8) ++ (0 : BitVec 64)) ∧
    answers (.fhash 8) ((0x00 : BitVec 8) ++ forwardHash c (List.replicate 8 0)) ∧
    ∃ t, exec .sstart s = .next t ∧ t.fe = true ∧ t.rsps = [(0x00 : BitVec 8) ++ (0 : BitVec 64)]

/-! ### Whole-machine rules -/

/-- R23, R229: which commands may set and clear each flag. The fault latch is set only by `SRUN`, with `E_CONSIST`, and cleared
only by `RESET`. -/
def Obligations.FlagsChangeOnlyByTheirCommands : Prop :=
  ∀ (i : Instr) (s t : State), exec i s = .next t →
    (s.hv = false → t.hv = true → ∃ len, i = .hinit len) ∧
    (s.hv = true → t.hv = false → i = .reset) ∧
    (s.run = false → t.run = true → i = .sstart ∧ 0 < t.pendingCount) ∧
    (s.run = true → t.run = false → i = .sstop ∨ i = .reset ∨ ∃ n, i = .srun n) ∧
    (s.fe = false → t.fe = true → t.pendingCount = 0 ∧ (i = .sstart ∨ ∃ n, i = .srun n)) ∧
    (s.fe = true → t.fe = false → i = .sstart ∨ i = .sstop ∨ i = .tclr ∨ i = .reset) ∧
    (s.fx = false → t.fx = true → 0 < t.pendingCount ∧ ∃ n, i = .srun n) ∧
    (s.fx = true → t.fx = false → i = .sstart ∨ i = .sstop ∨ i = .tclr ∨ i = .reset) ∧
    (s.fault = false → t.fault = true →
      (∃ n, i = .srun n) ∧ t.run = false ∧ ∃ d : Word, t.rsps = ((0x0A : BitVec 8) ++ d) :: s.rsps) ∧
    (s.fault = true → t.fault = false → i = .reset)

/-- 20_memory.md R58: the commands that read and change no state, those that change the cursor they read through, and `RPOP`. -/
def Obligations.ReadingHasOnlyTheNamedSideEffects : Prop :=
  ∀ (i : Instr) (s t : State), exec i s = .next t →
    ((∃ n, i = .fhash n) ∨ (∃ n k, i = .phash n k) ∨ i = .tsize ∨ (∃ p, i = .tprobe p) ∨ (∃ sel, i = .rrd sel) ∨
        (∃ idx, i = .crd idx) ∨ i = .hread ∨ (∃ b, i = .achk b) ∨ (∃ hash, i = .invtm hash) →
      t = { s with rsps := t.rsps } ∧ ∃ r u, t.rsps = r :: s.rsps ∧ exec i t = .next u ∧ u.rsps = r :: t.rsps) ∧
    (i = .mrd8 ∨ i = .mrd64 → t = { s with ma := t.ma, rsps := t.rsps }) ∧
    (i = .rpop → t = { s with res := t.res, rn := t.rn, rsps := t.rsps }) ∧
    (i = .anext → t = { s with ac := t.ac, rsps := t.rsps })

/-- 42_alphabet.md R146: the host's cursor and the odometer are moved by different commands, never by one. -/
def Obligations.CursorAndOdometerMoveApart : Prop :=
  ∀ (i : Instr) (s t : State), exec i s = .next t → i ≠ .reset →
    (t.ac ≠ s.ac → (i = .arst ∨ i = .anext) ∧ t.dig = s.dig) ∧
    (t.dig ≠ s.dig → (i = .sstart ∨ ∃ n, i = .srun n) ∧ t.ac = s.ac)

/-- R34: the invariants hold right after reset, in every instance. -/
def Obligations.InvariantsHoldAtReset : Prop :=
  ∀ c : Params, (State.resetWith c).Inv

/-- R34: every step from every state that meets the invariants gives a state that meets them. -/
def Obligations.EveryStepKeepsTheInvariants : Prop :=
  ∀ s t : State, s.Inv → step s = .next t → t.Inv
end

