-- ==== Sys2Proof/Laws/Bytes.lean ====
section
/-! SUPPORT. The little-endian packing (00_scope.md R14; 20_memory.md R52): packing and unpacking undo each other, and a byte of
a packed word is the byte of the sequence. -/

namespace Sys2Proof.Machine

@[simp] theorem bytes8_length (w : Word) : (bytes8 w).length = 8 := rfl

@[simp] theorem le64_nil : le64 [] = 0 := rfl

theorem le64_cons (b : Byte) (bs : List Byte) : le64 (b :: bs) = zext64 b ||| (le64 bs <<< 8) := rfl

/-- The least significant byte of a packed sequence is its first byte. -/
theorem byteAt_zero_le64_cons (b : Byte) (bs : List Byte) : byteAt (le64 (b :: bs)) 0 = b := by
  ext i hi
  have h64 : i < 64 := by omega
  simp [byteAt, le64_cons, zext64, hi, h64]

/-- The other bytes of a packed sequence are those of the rest. -/
theorem byteAt_succ_le64_cons (b : Byte) (bs : List Byte) (j : Nat) (hj : j < 7) :
    byteAt (le64 (b :: bs)) (j + 1) = byteAt (le64 bs) j := by
  ext i hi
  have h1 : 8 * (j + 1) + i < 64 := by omega
  have h2 : ¬ 8 * (j + 1) + i < 8 := by omega
  have h3 : 8 * (j + 1) + i - 8 = 8 * j + i := by omega
  have h4 : b.getLsbD (8 * (j + 1) + i) = false := BitVec.getLsbD_of_ge b _ (by omega)
  simp only [byteAt, le64_cons, zext64, BitVec.getElem_extractLsb', BitVec.getLsbD_or, BitVec.getLsbD_setWidth,
    BitVec.getLsbD_shiftLeft, h1, h2, h3, h4, decide_true, decide_false, Bool.and_false, Bool.false_or, Bool.not_false,
    Bool.true_and]

/-- Byte `j` of `LE64` of a sequence is its byte `j`, and 0 beyond its end. -/
theorem byteAt_le64 (bs : List Byte) (j : Nat) (hj : j < 8) : byteAt (le64 bs) j = bs.getD j 0 := by
  induction bs generalizing j with
  | nil =>
    ext i hi
    simp [byteAt]
  | cons b bs ih =>
    cases j with
    | zero => simpa using byteAt_zero_le64_cons b bs
    | succ j =>
      rw [byteAt_succ_le64_cons b bs j (by omega), ih j (by omega)]
      simp

/-- Two words with the same bytes are the same word. -/
theorem word_ext {v w : Word} (h : ∀ j, j < 8 → byteAt v j = byteAt w j) : v = w := by
  ext i hi
  have hb := congrArg (fun x : Byte => x.getLsbD (i % 8)) (h (i / 8) (by omega))
  have hm : i % 8 < 8 := Nat.mod_lt _ (by omega)
  have hd : 8 * (i / 8) + i % 8 = i := Nat.div_add_mod i 8
  simp only [byteAt, BitVec.getLsbD_extractLsb', hm, decide_true, Bool.true_and, hd] at hb
  simpa [BitVec.getLsbD_eq_getElem hi] using hb

/-- `Bytes8` in order. -/
theorem bytes8_getD (w : Word) (j : Nat) (hj : j < 8) : (bytes8 w).getD j 0 = byteAt w j := by
  interval_cases j <;> rfl

/-- `LE64(Bytes8(w)) = w`. -/
@[simp] theorem le64_bytes8 (w : Word) : le64 (bytes8 w) = w :=
  word_ext fun j hj => by rw [byteAt_le64 _ _ hj, bytes8_getD _ _ hj]

/-- `Bytes8(LE64(bs)) = bs` for eight bytes. -/
theorem bytes8_le64 {bs : List Byte} (h : bs.length = 8) : bytes8 (le64 bs) = bs := by
  apply List.ext_getElem (by simp [h])
  intro j h1 h2
  have hj : j < 8 := by simpa using h1
  have e := byteAt_le64 bs j hj
  rw [← bytes8_getD _ _ hj] at e
  simpa [List.getD_eq_getElem?_getD, List.getElem?_eq_getElem h1, List.getElem?_eq_getElem h2] using e

/-- Trailing zero bytes add nothing to a packed word. -/
theorem le64_append_zeros (bs : List Byte) (n : Nat) : le64 (bs ++ List.replicate n 0) = le64 bs := by
  apply word_ext
  intro j hj
  rw [byteAt_le64 _ _ hj, byteAt_le64 _ _ hj]
  by_cases h : j < bs.length
  · simp [List.getD_eq_getElem?_getD, List.getElem?_append_left h]
  · have h' : bs.length ≤ j := by omega
    simp [List.getD_eq_getElem?_getD, List.getElem?_append_right h', List.getElem?_replicate]
    split <;> simp_all

/-- `PackTail` is `LE64`: the unused high bytes are 0. -/
theorem packTail_eq_le64 (bs : List Byte) : packTail bs = le64 bs := le64_append_zeros bs _

/-- A valid tail word has byte 7 equal to 0 and its seven low bytes in the alphabet (42_alphabet.md R142). -/
theorem validTail_iff (c : Word) :
    validTail c = true ↔ byteAt c 7 = 0 ∧ ∀ j, j < 7 → inAlpha (byteAt c j) = true := by
  simp only [validTail, Bool.and_eq_true, beq_iff_eq, List.all_eq_true]
  refine and_congr_right fun _ => ?_
  constructor
  · intro h j hj
    apply h
    interval_cases j <;> simp [bytes8]
  · intro h b hb
    simp only [bytes8, List.take_succ_cons, List.take_zero, List.mem_cons, List.not_mem_nil, or_false] at hb
    rcases hb with rfl | rfl | rfl | rfl | rfl | rfl | rfl
    · exact h 0 (by omega)
    · exact h 1 (by omega)
    · exact h 2 (by omega)
    · exact h 3 (by omega)
    · exact h 4 (by omega)
    · exact h 5 (by omega)
    · exact h 6 (by omega)

/-- An alphabet byte is not 0 and has its top bit clear (42_alphabet.md R141). -/
theorem inAlpha_bounds {b : Byte} (h : inAlpha b = true) : 32 ≤ b.toNat ∧ b.toNat ≤ 126 ∧ b.toNat ≠ 92 := by
  revert h
  revert b
  decide

/-- The 94 indices give alphabet bytes (42_alphabet.md R140, R141). -/
theorem inAlpha_alpha (i : BitVec 7) (h : i.toNat ≤ 93) : inAlpha (alpha i) = true := by
  have key : ∀ i : BitVec 7, i.toNat ≤ 93 →
      inAlpha (if i.toNat ≤ 59 then Config.alphaLo + i.setWidth 8 else Config.alphaLo + 1 + i.setWidth 8) = true := by
    decide
  have hlt : i.toNat < Config.alphaCount := by
    have : Config.alphaCount = 94 := rfl
    omega
  have e := key i h
  unfold alpha
  rw [if_pos hlt]
  exact e

/-- On the 94 indices `Alpha` keeps the order, so different indices give different bytes (42_alphabet.md R140). -/
theorem alpha_lt_alpha {i j : BitVec 7} (hj : j.toNat ≤ 93) (h : i.toNat < j.toNat) : (alpha i).toNat < (alpha j).toNat := by
  have val : ∀ k : BitVec 7, k.toNat ≤ 93 → (alpha k).toNat = if k.toNat ≤ 59 then 32 + k.toNat else 33 + k.toNat := by
    intro k hk
    have hlt : k.toNat < Config.alphaCount := by
      have : Config.alphaCount = 94 := rfl
      omega
    have hl : Config.alphaLo.toNat = 32 := rfl
    have hl1 : (Config.alphaLo + 1).toNat = 33 := rfl
    unfold alpha
    by_cases h59 : k.toNat ≤ 59
    · rw [if_pos h59, if_pos h59, BitVec.toNat_add, hl, BitVec.toNat_setWidth]
      omega
    · rw [if_neg h59, if_neg h59, if_pos hlt, BitVec.toNat_add, hl1, BitVec.toNat_setWidth]
      omega
  rw [val i (by omega), val j hj]
  split <;> split <;> omega

end Sys2Proof.Machine
end

