-- ==== Sys2Proof/Laws/State.lean ====
section
/-! SUPPORT. What each named update of the state leaves in each field, one lemma per field per update, true by rfl. -/

namespace Sys2Proof.Machine

variable (s : State)

section
variable (v : Word) (b : Bool)
@[simp] theorem State.setHash_cfg : (s.setHash v b).cfg = s.cfg := rfl
@[simp] theorem State.setHash_h : (s.setHash v b).h = v := rfl
@[simp] theorem State.setHash_hv : (s.setHash v b).hv = b := rfl
@[simp] theorem State.setHash_ma : (s.setHash v b).ma = s.ma := rfl
@[simp] theorem State.setHash_msg : (s.setHash v b).msg = s.msg := rfl
@[simp] theorem State.setHash_ac : (s.setHash v b).ac = s.ac := rfl
@[simp] theorem State.setHash_tgt : (s.setHash v b).tgt = s.tgt := rfl
@[simp] theorem State.setHash_tn : (s.setHash v b).tn = s.tn := rfl
@[simp] theorem State.setHash_dig : (s.setHash v b).dig = s.dig := rfl
@[simp] theorem State.setHash_run : (s.setHash v b).run = s.run := rfl
@[simp] theorem State.setHash_fe : (s.setHash v b).fe = s.fe := rfl
@[simp] theorem State.setHash_fx : (s.setHash v b).fx = s.fx := rfl
@[simp] theorem State.setHash_fault : (s.setHash v b).fault = s.fault := rfl
@[simp] theorem State.setHash_pcnt : (s.setHash v b).pcnt = s.pcnt := rfl
@[simp] theorem State.setHash_res : (s.setHash v b).res = s.res := rfl
@[simp] theorem State.setHash_rn : (s.setHash v b).rn = s.rn := rfl
@[simp] theorem State.setHash_cmds : (s.setHash v b).cmds = s.cmds := rfl
@[simp] theorem State.setHash_rsps : (s.setHash v b).rsps = s.rsps := rfl
@[simp] theorem State.setHash_allocated : (s.setHash v b).allocated = s.allocated := rfl
@[simp] theorem State.setHash_pendingCount : (s.setHash v b).pendingCount = s.pendingCount := rfl
@[simp] theorem State.setHash_pendingWord : (s.setHash v b).pendingWord = s.pendingWord := rfl
end

section
variable (a : BitVec 32)
@[simp] theorem State.setMa_cfg : (s.setMa a).cfg = s.cfg := rfl
@[simp] theorem State.setMa_h : (s.setMa a).h = s.h := rfl
@[simp] theorem State.setMa_hv : (s.setMa a).hv = s.hv := rfl
@[simp] theorem State.setMa_ma : (s.setMa a).ma = a := rfl
@[simp] theorem State.setMa_msg : (s.setMa a).msg = s.msg := rfl
@[simp] theorem State.setMa_ac : (s.setMa a).ac = s.ac := rfl
@[simp] theorem State.setMa_tgt : (s.setMa a).tgt = s.tgt := rfl
@[simp] theorem State.setMa_tn : (s.setMa a).tn = s.tn := rfl
@[simp] theorem State.setMa_dig : (s.setMa a).dig = s.dig := rfl
@[simp] theorem State.setMa_run : (s.setMa a).run = s.run := rfl
@[simp] theorem State.setMa_fe : (s.setMa a).fe = s.fe := rfl
@[simp] theorem State.setMa_fx : (s.setMa a).fx = s.fx := rfl
@[simp] theorem State.setMa_fault : (s.setMa a).fault = s.fault := rfl
@[simp] theorem State.setMa_pcnt : (s.setMa a).pcnt = s.pcnt := rfl
@[simp] theorem State.setMa_res : (s.setMa a).res = s.res := rfl
@[simp] theorem State.setMa_rn : (s.setMa a).rn = s.rn := rfl
@[simp] theorem State.setMa_cmds : (s.setMa a).cmds = s.cmds := rfl
@[simp] theorem State.setMa_rsps : (s.setMa a).rsps = s.rsps := rfl
@[simp] theorem State.setMa_allocated : (s.setMa a).allocated = s.allocated := rfl
@[simp] theorem State.setMa_pendingCount : (s.setMa a).pendingCount = s.pendingCount := rfl
@[simp] theorem State.setMa_pendingWord : (s.setMa a).pendingWord = s.pendingWord := rfl
end

section
variable (m : Memory)
@[simp] theorem State.setMsg_cfg : (s.setMsg m).cfg = s.cfg := rfl
@[simp] theorem State.setMsg_h : (s.setMsg m).h = s.h := rfl
@[simp] theorem State.setMsg_hv : (s.setMsg m).hv = s.hv := rfl
@[simp] theorem State.setMsg_ma : (s.setMsg m).ma = s.ma := rfl
@[simp] theorem State.setMsg_msg : (s.setMsg m).msg = m := rfl
@[simp] theorem State.setMsg_ac : (s.setMsg m).ac = s.ac := rfl
@[simp] theorem State.setMsg_tgt : (s.setMsg m).tgt = s.tgt := rfl
@[simp] theorem State.setMsg_tn : (s.setMsg m).tn = s.tn := rfl
@[simp] theorem State.setMsg_dig : (s.setMsg m).dig = s.dig := rfl
@[simp] theorem State.setMsg_run : (s.setMsg m).run = s.run := rfl
@[simp] theorem State.setMsg_fe : (s.setMsg m).fe = s.fe := rfl
@[simp] theorem State.setMsg_fx : (s.setMsg m).fx = s.fx := rfl
@[simp] theorem State.setMsg_fault : (s.setMsg m).fault = s.fault := rfl
@[simp] theorem State.setMsg_pcnt : (s.setMsg m).pcnt = s.pcnt := rfl
@[simp] theorem State.setMsg_res : (s.setMsg m).res = s.res := rfl
@[simp] theorem State.setMsg_rn : (s.setMsg m).rn = s.rn := rfl
@[simp] theorem State.setMsg_cmds : (s.setMsg m).cmds = s.cmds := rfl
@[simp] theorem State.setMsg_rsps : (s.setMsg m).rsps = s.rsps := rfl
@[simp] theorem State.setMsg_allocated : (s.setMsg m).allocated = s.allocated := rfl
@[simp] theorem State.setMsg_pendingCount : (s.setMsg m).pendingCount = s.pendingCount := rfl
@[simp] theorem State.setMsg_pendingWord : (s.setMsg m).pendingWord = s.pendingWord := rfl
end

section
variable (a : BitVec 7)
@[simp] theorem State.setAc_cfg : (s.setAc a).cfg = s.cfg := rfl
@[simp] theorem State.setAc_h : (s.setAc a).h = s.h := rfl
@[simp] theorem State.setAc_hv : (s.setAc a).hv = s.hv := rfl
@[simp] theorem State.setAc_ma : (s.setAc a).ma = s.ma := rfl
@[simp] theorem State.setAc_msg : (s.setAc a).msg = s.msg := rfl
@[simp] theorem State.setAc_ac : (s.setAc a).ac = a := rfl
@[simp] theorem State.setAc_tgt : (s.setAc a).tgt = s.tgt := rfl
@[simp] theorem State.setAc_tn : (s.setAc a).tn = s.tn := rfl
@[simp] theorem State.setAc_dig : (s.setAc a).dig = s.dig := rfl
@[simp] theorem State.setAc_run : (s.setAc a).run = s.run := rfl
@[simp] theorem State.setAc_fe : (s.setAc a).fe = s.fe := rfl
@[simp] theorem State.setAc_fx : (s.setAc a).fx = s.fx := rfl
@[simp] theorem State.setAc_fault : (s.setAc a).fault = s.fault := rfl
@[simp] theorem State.setAc_pcnt : (s.setAc a).pcnt = s.pcnt := rfl
@[simp] theorem State.setAc_res : (s.setAc a).res = s.res := rfl
@[simp] theorem State.setAc_rn : (s.setAc a).rn = s.rn := rfl
@[simp] theorem State.setAc_cmds : (s.setAc a).cmds = s.cmds := rfl
@[simp] theorem State.setAc_rsps : (s.setAc a).rsps = s.rsps := rfl
@[simp] theorem State.setAc_allocated : (s.setAc a).allocated = s.allocated := rfl
@[simp] theorem State.setAc_pendingCount : (s.setAc a).pendingCount = s.pendingCount := rfl
@[simp] theorem State.setAc_pendingWord : (s.setAc a).pendingWord = s.pendingWord := rfl
end

section
variable (ts : List Slot) (n : BitVec 32)
@[simp] theorem State.setTargets_cfg : (s.setTargets ts n).cfg = s.cfg := rfl
@[simp] theorem State.setTargets_h : (s.setTargets ts n).h = s.h := rfl
@[simp] theorem State.setTargets_hv : (s.setTargets ts n).hv = s.hv := rfl
@[simp] theorem State.setTargets_ma : (s.setTargets ts n).ma = s.ma := rfl
@[simp] theorem State.setTargets_msg : (s.setTargets ts n).msg = s.msg := rfl
@[simp] theorem State.setTargets_ac : (s.setTargets ts n).ac = s.ac := rfl
@[simp] theorem State.setTargets_tgt : (s.setTargets ts n).tgt = ts := rfl
@[simp] theorem State.setTargets_tn : (s.setTargets ts n).tn = n := rfl
@[simp] theorem State.setTargets_dig : (s.setTargets ts n).dig = s.dig := rfl
@[simp] theorem State.setTargets_run : (s.setTargets ts n).run = s.run := rfl
@[simp] theorem State.setTargets_fe : (s.setTargets ts n).fe = s.fe := rfl
@[simp] theorem State.setTargets_fx : (s.setTargets ts n).fx = s.fx := rfl
@[simp] theorem State.setTargets_fault : (s.setTargets ts n).fault = s.fault := rfl
@[simp] theorem State.setTargets_pcnt : (s.setTargets ts n).pcnt = s.pcnt := rfl
@[simp] theorem State.setTargets_res : (s.setTargets ts n).res = s.res := rfl
@[simp] theorem State.setTargets_rn : (s.setTargets ts n).rn = s.rn := rfl
@[simp] theorem State.setTargets_cmds : (s.setTargets ts n).cmds = s.cmds := rfl
@[simp] theorem State.setTargets_rsps : (s.setTargets ts n).rsps = s.rsps := rfl
end

section
variable (rs : List Record) (n : BitVec 32)
@[simp] theorem State.setResults_cfg : (s.setResults rs n).cfg = s.cfg := rfl
@[simp] theorem State.setResults_h : (s.setResults rs n).h = s.h := rfl
@[simp] theorem State.setResults_hv : (s.setResults rs n).hv = s.hv := rfl
@[simp] theorem State.setResults_ma : (s.setResults rs n).ma = s.ma := rfl
@[simp] theorem State.setResults_msg : (s.setResults rs n).msg = s.msg := rfl
@[simp] theorem State.setResults_ac : (s.setResults rs n).ac = s.ac := rfl
@[simp] theorem State.setResults_tgt : (s.setResults rs n).tgt = s.tgt := rfl
@[simp] theorem State.setResults_tn : (s.setResults rs n).tn = s.tn := rfl
@[simp] theorem State.setResults_dig : (s.setResults rs n).dig = s.dig := rfl
@[simp] theorem State.setResults_run : (s.setResults rs n).run = s.run := rfl
@[simp] theorem State.setResults_fe : (s.setResults rs n).fe = s.fe := rfl
@[simp] theorem State.setResults_fx : (s.setResults rs n).fx = s.fx := rfl
@[simp] theorem State.setResults_fault : (s.setResults rs n).fault = s.fault := rfl
@[simp] theorem State.setResults_pcnt : (s.setResults rs n).pcnt = s.pcnt := rfl
@[simp] theorem State.setResults_res : (s.setResults rs n).res = rs := rfl
@[simp] theorem State.setResults_rn : (s.setResults rs n).rn = n := rfl
@[simp] theorem State.setResults_cmds : (s.setResults rs n).cmds = s.cmds := rfl
@[simp] theorem State.setResults_rsps : (s.setResults rs n).rsps = s.rsps := rfl
@[simp] theorem State.setResults_allocated : (s.setResults rs n).allocated = s.allocated := rfl
@[simp] theorem State.setResults_pendingCount : (s.setResults rs n).pendingCount = s.pendingCount := rfl
@[simp] theorem State.setResults_pendingWord : (s.setResults rs n).pendingWord = s.pendingWord := rfl
end

section
variable (d : Odometer)
@[simp] theorem State.setDig_cfg : (s.setDig d).cfg = s.cfg := rfl
@[simp] theorem State.setDig_h : (s.setDig d).h = s.h := rfl
@[simp] theorem State.setDig_hv : (s.setDig d).hv = s.hv := rfl
@[simp] theorem State.setDig_ma : (s.setDig d).ma = s.ma := rfl
@[simp] theorem State.setDig_msg : (s.setDig d).msg = s.msg := rfl
@[simp] theorem State.setDig_ac : (s.setDig d).ac = s.ac := rfl
@[simp] theorem State.setDig_tgt : (s.setDig d).tgt = s.tgt := rfl
@[simp] theorem State.setDig_tn : (s.setDig d).tn = s.tn := rfl
@[simp] theorem State.setDig_dig : (s.setDig d).dig = d := rfl
@[simp] theorem State.setDig_run : (s.setDig d).run = s.run := rfl
@[simp] theorem State.setDig_fe : (s.setDig d).fe = s.fe := rfl
@[simp] theorem State.setDig_fx : (s.setDig d).fx = s.fx := rfl
@[simp] theorem State.setDig_fault : (s.setDig d).fault = s.fault := rfl
@[simp] theorem State.setDig_pcnt : (s.setDig d).pcnt = s.pcnt := rfl
@[simp] theorem State.setDig_res : (s.setDig d).res = s.res := rfl
@[simp] theorem State.setDig_rn : (s.setDig d).rn = s.rn := rfl
@[simp] theorem State.setDig_cmds : (s.setDig d).cmds = s.cmds := rfl
@[simp] theorem State.setDig_rsps : (s.setDig d).rsps = s.rsps := rfl
@[simp] theorem State.setDig_allocated : (s.setDig d).allocated = s.allocated := rfl
@[simp] theorem State.setDig_pendingCount : (s.setDig d).pendingCount = s.pendingCount := rfl
@[simp] theorem State.setDig_pendingWord : (s.setDig d).pendingWord = s.pendingWord := rfl
end

section
variable (c : Word)
@[simp] theorem State.setPcnt_cfg : (s.setPcnt c).cfg = s.cfg := rfl
@[simp] theorem State.setPcnt_h : (s.setPcnt c).h = s.h := rfl
@[simp] theorem State.setPcnt_hv : (s.setPcnt c).hv = s.hv := rfl
@[simp] theorem State.setPcnt_ma : (s.setPcnt c).ma = s.ma := rfl
@[simp] theorem State.setPcnt_msg : (s.setPcnt c).msg = s.msg := rfl
@[simp] theorem State.setPcnt_ac : (s.setPcnt c).ac = s.ac := rfl
@[simp] theorem State.setPcnt_tgt : (s.setPcnt c).tgt = s.tgt := rfl
@[simp] theorem State.setPcnt_tn : (s.setPcnt c).tn = s.tn := rfl
@[simp] theorem State.setPcnt_dig : (s.setPcnt c).dig = s.dig := rfl
@[simp] theorem State.setPcnt_run : (s.setPcnt c).run = s.run := rfl
@[simp] theorem State.setPcnt_fe : (s.setPcnt c).fe = s.fe := rfl
@[simp] theorem State.setPcnt_fx : (s.setPcnt c).fx = s.fx := rfl
@[simp] theorem State.setPcnt_fault : (s.setPcnt c).fault = s.fault := rfl
@[simp] theorem State.setPcnt_pcnt : (s.setPcnt c).pcnt = c := rfl
@[simp] theorem State.setPcnt_res : (s.setPcnt c).res = s.res := rfl
@[simp] theorem State.setPcnt_rn : (s.setPcnt c).rn = s.rn := rfl
@[simp] theorem State.setPcnt_cmds : (s.setPcnt c).cmds = s.cmds := rfl
@[simp] theorem State.setPcnt_rsps : (s.setPcnt c).rsps = s.rsps := rfl
@[simp] theorem State.setPcnt_allocated : (s.setPcnt c).allocated = s.allocated := rfl
@[simp] theorem State.setPcnt_pendingCount : (s.setPcnt c).pendingCount = s.pendingCount := rfl
@[simp] theorem State.setPcnt_pendingWord : (s.setPcnt c).pendingWord = s.pendingWord := rfl
end

section
variable (r e x : Bool)
@[simp] theorem State.setSearchFlags_cfg : (s.setSearchFlags r e x).cfg = s.cfg := rfl
@[simp] theorem State.setSearchFlags_h : (s.setSearchFlags r e x).h = s.h := rfl
@[simp] theorem State.setSearchFlags_hv : (s.setSearchFlags r e x).hv = s.hv := rfl
@[simp] theorem State.setSearchFlags_ma : (s.setSearchFlags r e x).ma = s.ma := rfl
@[simp] theorem State.setSearchFlags_msg : (s.setSearchFlags r e x).msg = s.msg := rfl
@[simp] theorem State.setSearchFlags_ac : (s.setSearchFlags r e x).ac = s.ac := rfl
@[simp] theorem State.setSearchFlags_tgt : (s.setSearchFlags r e x).tgt = s.tgt := rfl
@[simp] theorem State.setSearchFlags_tn : (s.setSearchFlags r e x).tn = s.tn := rfl
@[simp] theorem State.setSearchFlags_dig : (s.setSearchFlags r e x).dig = s.dig := rfl
@[simp] theorem State.setSearchFlags_run : (s.setSearchFlags r e x).run = r := rfl
@[simp] theorem State.setSearchFlags_fe : (s.setSearchFlags r e x).fe = e := rfl
@[simp] theorem State.setSearchFlags_fx : (s.setSearchFlags r e x).fx = x := rfl
@[simp] theorem State.setSearchFlags_fault : (s.setSearchFlags r e x).fault = s.fault := rfl
@[simp] theorem State.setSearchFlags_pcnt : (s.setSearchFlags r e x).pcnt = s.pcnt := rfl
@[simp] theorem State.setSearchFlags_res : (s.setSearchFlags r e x).res = s.res := rfl
@[simp] theorem State.setSearchFlags_rn : (s.setSearchFlags r e x).rn = s.rn := rfl
@[simp] theorem State.setSearchFlags_cmds : (s.setSearchFlags r e x).cmds = s.cmds := rfl
@[simp] theorem State.setSearchFlags_rsps : (s.setSearchFlags r e x).rsps = s.rsps := rfl
@[simp] theorem State.setSearchFlags_allocated : (s.setSearchFlags r e x).allocated = s.allocated := rfl
@[simp] theorem State.setSearchFlags_pendingCount : (s.setSearchFlags r e x).pendingCount = s.pendingCount := rfl
@[simp] theorem State.setSearchFlags_pendingWord : (s.setSearchFlags r e x).pendingWord = s.pendingWord := rfl
end

section
variable (ws : List CommandWord)
@[simp] theorem State.setCmds_cfg : (s.setCmds ws).cfg = s.cfg := rfl
@[simp] theorem State.setCmds_h : (s.setCmds ws).h = s.h := rfl
@[simp] theorem State.setCmds_hv : (s.setCmds ws).hv = s.hv := rfl
@[simp] theorem State.setCmds_ma : (s.setCmds ws).ma = s.ma := rfl
@[simp] theorem State.setCmds_msg : (s.setCmds ws).msg = s.msg := rfl
@[simp] theorem State.setCmds_ac : (s.setCmds ws).ac = s.ac := rfl
@[simp] theorem State.setCmds_tgt : (s.setCmds ws).tgt = s.tgt := rfl
@[simp] theorem State.setCmds_tn : (s.setCmds ws).tn = s.tn := rfl
@[simp] theorem State.setCmds_dig : (s.setCmds ws).dig = s.dig := rfl
@[simp] theorem State.setCmds_run : (s.setCmds ws).run = s.run := rfl
@[simp] theorem State.setCmds_fe : (s.setCmds ws).fe = s.fe := rfl
@[simp] theorem State.setCmds_fx : (s.setCmds ws).fx = s.fx := rfl
@[simp] theorem State.setCmds_fault : (s.setCmds ws).fault = s.fault := rfl
@[simp] theorem State.setCmds_pcnt : (s.setCmds ws).pcnt = s.pcnt := rfl
@[simp] theorem State.setCmds_res : (s.setCmds ws).res = s.res := rfl
@[simp] theorem State.setCmds_rn : (s.setCmds ws).rn = s.rn := rfl
@[simp] theorem State.setCmds_cmds : (s.setCmds ws).cmds = ws := rfl
@[simp] theorem State.setCmds_rsps : (s.setCmds ws).rsps = s.rsps := rfl
@[simp] theorem State.setCmds_allocated : (s.setCmds ws).allocated = s.allocated := rfl
@[simp] theorem State.setCmds_pendingCount : (s.setCmds ws).pendingCount = s.pendingCount := rfl
@[simp] theorem State.setCmds_pendingWord : (s.setCmds ws).pendingWord = s.pendingWord := rfl
end

section
variable (st : Status) (d : Word)
@[simp] theorem State.answer_cfg : (s.answer st d).cfg = s.cfg := rfl
@[simp] theorem State.answer_h : (s.answer st d).h = s.h := rfl
@[simp] theorem State.answer_hv : (s.answer st d).hv = s.hv := rfl
@[simp] theorem State.answer_ma : (s.answer st d).ma = s.ma := rfl
@[simp] theorem State.answer_msg : (s.answer st d).msg = s.msg := rfl
@[simp] theorem State.answer_ac : (s.answer st d).ac = s.ac := rfl
@[simp] theorem State.answer_tgt : (s.answer st d).tgt = s.tgt := rfl
@[simp] theorem State.answer_tn : (s.answer st d).tn = s.tn := rfl
@[simp] theorem State.answer_dig : (s.answer st d).dig = s.dig := rfl
@[simp] theorem State.answer_run : (s.answer st d).run = s.run := rfl
@[simp] theorem State.answer_fe : (s.answer st d).fe = s.fe := rfl
@[simp] theorem State.answer_fx : (s.answer st d).fx = s.fx := rfl
@[simp] theorem State.answer_fault : (s.answer st d).fault = s.fault := rfl
@[simp] theorem State.answer_pcnt : (s.answer st d).pcnt = s.pcnt := rfl
@[simp] theorem State.answer_res : (s.answer st d).res = s.res := rfl
@[simp] theorem State.answer_rn : (s.answer st d).rn = s.rn := rfl
@[simp] theorem State.answer_cmds : (s.answer st d).cmds = s.cmds := rfl
@[simp] theorem State.answer_rsps : (s.answer st d).rsps = rsp st d :: s.rsps := rfl
@[simp] theorem State.answer_allocated : (s.answer st d).allocated = s.allocated := rfl
@[simp] theorem State.answer_pendingCount : (s.answer st d).pendingCount = s.pendingCount := rfl
@[simp] theorem State.answer_pendingWord : (s.answer st d).pendingWord = s.pendingWord := rfl
end

section
variable (e : Status)
@[simp] theorem State.raise_cfg : (s.raise e).cfg = s.cfg := rfl
@[simp] theorem State.raise_h : (s.raise e).h = s.h := rfl
@[simp] theorem State.raise_hv : (s.raise e).hv = s.hv := rfl
@[simp] theorem State.raise_ma : (s.raise e).ma = s.ma := rfl
@[simp] theorem State.raise_msg : (s.raise e).msg = s.msg := rfl
@[simp] theorem State.raise_ac : (s.raise e).ac = s.ac := rfl
@[simp] theorem State.raise_tgt : (s.raise e).tgt = s.tgt := rfl
@[simp] theorem State.raise_tn : (s.raise e).tn = s.tn := rfl
@[simp] theorem State.raise_dig : (s.raise e).dig = s.dig := rfl
@[simp] theorem State.raise_run : (s.raise e).run = s.run := rfl
@[simp] theorem State.raise_fe : (s.raise e).fe = s.fe := rfl
@[simp] theorem State.raise_fx : (s.raise e).fx = s.fx := rfl
@[simp] theorem State.raise_fault : (s.raise e).fault = s.fault := rfl
@[simp] theorem State.raise_pcnt : (s.raise e).pcnt = s.pcnt := rfl
@[simp] theorem State.raise_res : (s.raise e).res = s.res := rfl
@[simp] theorem State.raise_rn : (s.raise e).rn = s.rn := rfl
@[simp] theorem State.raise_cmds : (s.raise e).cmds = s.cmds := rfl
@[simp] theorem State.raise_rsps : (s.raise e).rsps = rsp e 0 :: s.rsps := rfl
@[simp] theorem State.raise_allocated : (s.raise e).allocated = s.allocated := rfl
@[simp] theorem State.raise_pendingCount : (s.raise e).pendingCount = s.pendingCount := rfl
@[simp] theorem State.raise_pendingWord : (s.raise e).pendingWord = s.pendingWord := rfl
end

section
@[simp] theorem State.latchFault_cfg : (s.latchFault).cfg = s.cfg := rfl
@[simp] theorem State.latchFault_h : (s.latchFault).h = s.h := rfl
@[simp] theorem State.latchFault_hv : (s.latchFault).hv = s.hv := rfl
@[simp] theorem State.latchFault_ma : (s.latchFault).ma = s.ma := rfl
@[simp] theorem State.latchFault_msg : (s.latchFault).msg = s.msg := rfl
@[simp] theorem State.latchFault_ac : (s.latchFault).ac = s.ac := rfl
@[simp] theorem State.latchFault_tgt : (s.latchFault).tgt = s.tgt := rfl
@[simp] theorem State.latchFault_tn : (s.latchFault).tn = s.tn := rfl
@[simp] theorem State.latchFault_dig : (s.latchFault).dig = s.dig := rfl
@[simp] theorem State.latchFault_run : (s.latchFault).run = false := rfl
@[simp] theorem State.latchFault_fe : (s.latchFault).fe = s.fe := rfl
@[simp] theorem State.latchFault_fx : (s.latchFault).fx = s.fx := rfl
@[simp] theorem State.latchFault_fault : (s.latchFault).fault = true := rfl
@[simp] theorem State.latchFault_pcnt : (s.latchFault).pcnt = s.pcnt := rfl
@[simp] theorem State.latchFault_res : (s.latchFault).res = s.res := rfl
@[simp] theorem State.latchFault_rn : (s.latchFault).rn = s.rn := rfl
@[simp] theorem State.latchFault_cmds : (s.latchFault).cmds = s.cmds := rfl
@[simp] theorem State.latchFault_rsps : (s.latchFault).rsps = s.rsps := rfl
@[simp] theorem State.latchFault_allocated : (s.latchFault).allocated = s.allocated := rfl
@[simp] theorem State.latchFault_pendingCount : (s.latchFault).pendingCount = s.pendingCount := rfl
@[simp] theorem State.latchFault_pendingWord : (s.latchFault).pendingWord = s.pendingWord := rfl
end

section
variable (n : BitVec 32)
@[simp] theorem State.advanceMa_cfg : (s.advanceMa n).cfg = s.cfg := rfl
@[simp] theorem State.advanceMa_h : (s.advanceMa n).h = s.h := rfl
@[simp] theorem State.advanceMa_hv : (s.advanceMa n).hv = s.hv := rfl
@[simp] theorem State.advanceMa_ma : (s.advanceMa n).ma = s.ma + n := rfl
@[simp] theorem State.advanceMa_msg : (s.advanceMa n).msg = s.msg := rfl
@[simp] theorem State.advanceMa_ac : (s.advanceMa n).ac = s.ac := rfl
@[simp] theorem State.advanceMa_tgt : (s.advanceMa n).tgt = s.tgt := rfl
@[simp] theorem State.advanceMa_tn : (s.advanceMa n).tn = s.tn := rfl
@[simp] theorem State.advanceMa_dig : (s.advanceMa n).dig = s.dig := rfl
@[simp] theorem State.advanceMa_run : (s.advanceMa n).run = s.run := rfl
@[simp] theorem State.advanceMa_fe : (s.advanceMa n).fe = s.fe := rfl
@[simp] theorem State.advanceMa_fx : (s.advanceMa n).fx = s.fx := rfl
@[simp] theorem State.advanceMa_fault : (s.advanceMa n).fault = s.fault := rfl
@[simp] theorem State.advanceMa_pcnt : (s.advanceMa n).pcnt = s.pcnt := rfl
@[simp] theorem State.advanceMa_res : (s.advanceMa n).res = s.res := rfl
@[simp] theorem State.advanceMa_rn : (s.advanceMa n).rn = s.rn := rfl
@[simp] theorem State.advanceMa_cmds : (s.advanceMa n).cmds = s.cmds := rfl
@[simp] theorem State.advanceMa_rsps : (s.advanceMa n).rsps = s.rsps := rfl
@[simp] theorem State.advanceMa_allocated : (s.advanceMa n).allocated = s.allocated := rfl
@[simp] theorem State.advanceMa_pendingCount : (s.advanceMa n).pendingCount = s.pendingCount := rfl
@[simp] theorem State.advanceMa_pendingWord : (s.advanceMa n).pendingWord = s.pendingWord := rfl
end

section
variable (hash : Word)
@[simp] theorem State.allocate_cfg : (s.allocate hash).cfg = s.cfg := rfl
@[simp] theorem State.allocate_h : (s.allocate hash).h = s.h := rfl
@[simp] theorem State.allocate_hv : (s.allocate hash).hv = s.hv := rfl
@[simp] theorem State.allocate_ma : (s.allocate hash).ma = s.ma := rfl
@[simp] theorem State.allocate_msg : (s.allocate hash).msg = s.msg := rfl
@[simp] theorem State.allocate_ac : (s.allocate hash).ac = s.ac := rfl
@[simp] theorem State.allocate_tgt : (s.allocate hash).tgt = s.tgt.set s.tn.toNat ⟨hash, invertTrailingMix s.cfg hash, true⟩ := rfl
@[simp] theorem State.allocate_tn : (s.allocate hash).tn = s.tn + 1 := rfl
@[simp] theorem State.allocate_dig : (s.allocate hash).dig = s.dig := rfl
@[simp] theorem State.allocate_run : (s.allocate hash).run = s.run := rfl
@[simp] theorem State.allocate_fe : (s.allocate hash).fe = s.fe := rfl
@[simp] theorem State.allocate_fx : (s.allocate hash).fx = s.fx := rfl
@[simp] theorem State.allocate_fault : (s.allocate hash).fault = s.fault := rfl
@[simp] theorem State.allocate_pcnt : (s.allocate hash).pcnt = s.pcnt := rfl
@[simp] theorem State.allocate_res : (s.allocate hash).res = s.res := rfl
@[simp] theorem State.allocate_rn : (s.allocate hash).rn = s.rn := rfl
@[simp] theorem State.allocate_cmds : (s.allocate hash).cmds = s.cmds := rfl
@[simp] theorem State.allocate_rsps : (s.allocate hash).rsps = s.rsps := rfl
end

section
variable (r : Record)
@[simp] theorem State.appendRecord_cfg : (s.appendRecord r).cfg = s.cfg := rfl
@[simp] theorem State.appendRecord_h : (s.appendRecord r).h = s.h := rfl
@[simp] theorem State.appendRecord_hv : (s.appendRecord r).hv = s.hv := rfl
@[simp] theorem State.appendRecord_ma : (s.appendRecord r).ma = s.ma := rfl
@[simp] theorem State.appendRecord_msg : (s.appendRecord r).msg = s.msg := rfl
@[simp] theorem State.appendRecord_ac : (s.appendRecord r).ac = s.ac := rfl
@[simp] theorem State.appendRecord_tgt : (s.appendRecord r).tgt = s.tgt := rfl
@[simp] theorem State.appendRecord_tn : (s.appendRecord r).tn = s.tn := rfl
@[simp] theorem State.appendRecord_dig : (s.appendRecord r).dig = s.dig := rfl
@[simp] theorem State.appendRecord_run : (s.appendRecord r).run = s.run := rfl
@[simp] theorem State.appendRecord_fe : (s.appendRecord r).fe = s.fe := rfl
@[simp] theorem State.appendRecord_fx : (s.appendRecord r).fx = s.fx := rfl
@[simp] theorem State.appendRecord_fault : (s.appendRecord r).fault = s.fault := rfl
@[simp] theorem State.appendRecord_pcnt : (s.appendRecord r).pcnt = s.pcnt := rfl
@[simp] theorem State.appendRecord_res : (s.appendRecord r).res = s.res.set s.rn.toNat r := rfl
@[simp] theorem State.appendRecord_rn : (s.appendRecord r).rn = s.rn + 1 := rfl
@[simp] theorem State.appendRecord_cmds : (s.appendRecord r).cmds = s.cmds := rfl
@[simp] theorem State.appendRecord_rsps : (s.appendRecord r).rsps = s.rsps := rfl
@[simp] theorem State.appendRecord_allocated : (s.appendRecord r).allocated = s.allocated := rfl
@[simp] theorem State.appendRecord_pendingCount : (s.appendRecord r).pendingCount = s.pendingCount := rfl
@[simp] theorem State.appendRecord_pendingWord : (s.appendRecord r).pendingWord = s.pendingWord := rfl
end

section
@[simp] theorem State.hardReset_cfg : s.hardReset.cfg = s.cfg := rfl
@[simp] theorem State.hardReset_h : s.hardReset.h = 0 := rfl
@[simp] theorem State.hardReset_hv : s.hardReset.hv = false := rfl
@[simp] theorem State.hardReset_ma : s.hardReset.ma = 0 := rfl
@[simp] theorem State.hardReset_msg : s.hardReset.msg = [] := rfl
@[simp] theorem State.hardReset_ac : s.hardReset.ac = 0 := rfl
@[simp] theorem State.hardReset_tgt : s.hardReset.tgt = List.replicate s.cfg.tgtCap.toNat Slot.zero := rfl
@[simp] theorem State.hardReset_tn : s.hardReset.tn = 0 := rfl
@[simp] theorem State.hardReset_dig : s.hardReset.dig = Odometer.zero := rfl
@[simp] theorem State.hardReset_run : s.hardReset.run = false := rfl
@[simp] theorem State.hardReset_fe : s.hardReset.fe = false := rfl
@[simp] theorem State.hardReset_fx : s.hardReset.fx = false := rfl
@[simp] theorem State.hardReset_fault : s.hardReset.fault = false := rfl
@[simp] theorem State.hardReset_pcnt : s.hardReset.pcnt = 0 := rfl
@[simp] theorem State.hardReset_res : s.hardReset.res = List.replicate s.cfg.tgtCap.toNat Record.zero := rfl
@[simp] theorem State.hardReset_rn : s.hardReset.rn = 0 := rfl
@[simp] theorem State.hardReset_cmds : s.hardReset.cmds = s.cmds := rfl
@[simp] theorem State.hardReset_rsps : s.hardReset.rsps = s.rsps := rfl
end

@[simp] theorem State.resetWith_cfg (c : Params) : (State.resetWith c).cfg = c := rfl
@[simp] theorem State.resetWith_h (c : Params) : (State.resetWith c).h = 0 := rfl
@[simp] theorem State.resetWith_hv (c : Params) : (State.resetWith c).hv = false := rfl
@[simp] theorem State.resetWith_ma (c : Params) : (State.resetWith c).ma = 0 := rfl
@[simp] theorem State.resetWith_msg (c : Params) : (State.resetWith c).msg = [] := rfl
@[simp] theorem State.resetWith_ac (c : Params) : (State.resetWith c).ac = 0 := rfl
@[simp] theorem State.resetWith_tgt (c : Params) : (State.resetWith c).tgt = List.replicate c.tgtCap.toNat Slot.zero := rfl
@[simp] theorem State.resetWith_tn (c : Params) : (State.resetWith c).tn = 0 := rfl
@[simp] theorem State.resetWith_dig (c : Params) : (State.resetWith c).dig = Odometer.zero := rfl
@[simp] theorem State.resetWith_run (c : Params) : (State.resetWith c).run = false := rfl
@[simp] theorem State.resetWith_fe (c : Params) : (State.resetWith c).fe = false := rfl
@[simp] theorem State.resetWith_fx (c : Params) : (State.resetWith c).fx = false := rfl
@[simp] theorem State.resetWith_fault (c : Params) : (State.resetWith c).fault = false := rfl
@[simp] theorem State.resetWith_pcnt (c : Params) : (State.resetWith c).pcnt = 0 := rfl
@[simp] theorem State.resetWith_res (c : Params) : (State.resetWith c).res = List.replicate c.tgtCap.toNat Record.zero := rfl
@[simp] theorem State.resetWith_rn (c : Params) : (State.resetWith c).rn = 0 := rfl
@[simp] theorem State.resetWith_cmds (c : Params) : (State.resetWith c).cmds = [] := rfl
@[simp] theorem State.resetWith_rsps (c : Params) : (State.resetWith c).rsps = [] := rfl

end Sys2Proof.Machine
end

