-- ==== Sys2Proof/Laws/Memory.lean ====
section
/-! SUPPORT. The message buffer: a byte written is read back, every other byte stays, the canonical form and the bounds are
kept (20_memory.md R53, R54), and equal contents are equal lists. -/

namespace Sys2Proof.Machine

/-- Every listed address is at least `lo`. -/
def Memory.from (m : Memory) (lo : Nat) : Prop := ∀ cell ∈ m, lo ≤ cell.1

theorem Memory.from_mono {m : Memory} {lo hi : Nat} (h : lo ≤ hi) (hm : Memory.from m hi) : Memory.from m lo :=
  fun cell hc => le_trans h (hm cell hc)

/-- The canonical form, one pair at a time. -/
theorem Memory.wf_cons_iff (a : Nat) (b : Byte) (rest : Memory) :
    Memory.wf ((a, b) :: rest) = true ↔
      b ≠ Memory.unlisted ∧ Memory.from rest (a + 1) ∧ Memory.wf rest = true := by
  induction rest generalizing a b with
  | nil => simp [Memory.wf, Memory.from]
  | cons cell rest ih =>
    obtain ⟨a', b'⟩ := cell
    have h := ih a' b'
    simp only [Memory.wf, Bool.and_eq_true, bne_iff_ne, decide_eq_true_eq] at *
    constructor
    · rintro ⟨⟨hb, hlt⟩, hw⟩
      obtain ⟨_, hf, _⟩ := h.1 hw
      refine ⟨hb, ?_, hw⟩
      intro cell hc
      rcases List.mem_cons.1 hc with rfl | hc
      · exact hlt
      · exact le_trans (by omega) (hf cell hc)
    · rintro ⟨hb, hf, hw⟩
      exact ⟨⟨hb, hf (a', b') (by simp)⟩, hw⟩

theorem Memory.wf_tail {a : Nat} {b : Byte} {rest : Memory} (h : Memory.wf ((a, b) :: rest) = true) :
    Memory.wf rest = true := ((Memory.wf_cons_iff a b rest).1 h).2.2

/-- An address below every listed one reads as unlisted. -/
theorem Memory.read_below {m : Memory} {lo x : Nat} (hm : Memory.from m lo) (hx : x < lo) :
    Memory.read m x = Memory.unlisted := by
  induction m with
  | nil => rfl
  | cons cell rest ih =>
    obtain ⟨a, b⟩ := cell
    have ha : lo ≤ a := hm (a, b) (by simp)
    have hne : a ≠ x := by omega
    simp only [Memory.read, if_neg hne]
    exact ih fun c hc => hm c (List.mem_cons_of_mem _ hc)

theorem Memory.mem_write {m : Memory} {x : Nat} {v : Byte} {cell : Host.Cell} (h : cell ∈ Memory.write m x v) :
    cell ∈ m ∨ cell = (x, v) := by
  induction m with
  | nil => by_cases hv : v = Memory.unlisted <;> simp_all [Memory.write]
  | cons c rest ih =>
    obtain ⟨a, b⟩ := c
    simp only [Memory.write] at h
    split at h
    · split at h
      · exact .inl h
      · rcases List.mem_cons.1 h with rfl | h
        · exact .inr rfl
        · exact .inl h
    · split at h
      · split at h
        · exact .inl (List.mem_cons_of_mem _ h)
        · rcases List.mem_cons.1 h with rfl | h
          · exact .inr rfl
          · exact .inl (List.mem_cons_of_mem _ h)
      · rcases List.mem_cons.1 h with rfl | h
        · exact .inl (by simp)
        · rcases ih h with h | h
          · exact .inl (List.mem_cons_of_mem _ h)
          · exact .inr h

/-- A write keeps the canonical form. -/
theorem Memory.write_wf {m : Memory} (x : Nat) (v : Byte) (h : Memory.wf m = true) :
    Memory.wf (Memory.write m x v) = true := by
  induction m with
  | nil => by_cases hv : v = Memory.unlisted <;> simp [Memory.write, hv, Memory.wf]
  | cons c rest ih =>
    obtain ⟨a, b⟩ := c
    obtain ⟨hb, hf, hw⟩ := (Memory.wf_cons_iff a b rest).1 h
    simp only [Memory.write]
    split
    · rename_i hlt
      split
      · exact h
      · rename_i hv
        refine (Memory.wf_cons_iff _ _ _).2 ⟨hv, ?_, h⟩
        intro cell hc
        rcases List.mem_cons.1 hc with rfl | hc
        · exact hlt
        · exact le_trans (by omega) (hf cell hc)
    · split
      · rename_i heq
        split
        · exact hw
        · rename_i hv
          exact (Memory.wf_cons_iff _ _ _).2 ⟨hv, heq ▸ hf, hw⟩
      · refine (Memory.wf_cons_iff _ _ _).2 ⟨hb, ?_, ih hw⟩
        intro cell hc
        rcases Memory.mem_write hc with hc | rfl
        · exact hf cell hc
        · show a + 1 ≤ x
          omega

/-- Reading after a write: the byte written at its address, every other byte as before. -/
theorem Memory.read_write {m : Memory} (x y : Nat) (v : Byte) (h : Memory.wf m = true) :
    Memory.read (Memory.write m x v) y = if y = x then v else Memory.read m y := by
  induction m with
  | nil =>
    by_cases hv : v = Memory.unlisted <;> by_cases hy : y = x <;> simp [Memory.write, Memory.read, hv, hy, eq_comm]
    intro hxy
    exact absurd hxy.symm hy
  | cons c rest ih =>
    obtain ⟨a, b⟩ := c
    obtain ⟨_, hf, hw⟩ := (Memory.wf_cons_iff a b rest).1 h
    have below : ∀ z, z ≤ a → Memory.read rest z = Memory.unlisted := fun z hz =>
      Memory.read_below hf (by omega)
    simp only [Memory.write]
    split
    · rename_i hlt
      split
      · rename_i hv
        split
        · rename_i hy
          have : a ≠ y := by omega
          simp [Memory.read, this, below y (by omega), hv]
        · rfl
      · simp only [Memory.read]
        by_cases hy : y = x
        · simp [hy]
        · have : x ≠ y := fun e => hy e.symm
          simp [hy, this]
    · split
      · rename_i heq
        subst heq
        split
        · rename_i hv
          by_cases hy : y = x
          · simp [hy, below x le_rfl, hv]
          · have : x ≠ y := fun e => hy e.symm
            simp [Memory.read, hy, this]
        · by_cases hy : y = x
          · simp [Memory.read, hy]
          · have : x ≠ y := fun e => hy e.symm
            simp [Memory.read, hy, this]
      · rename_i hlt hne
        simp only [Memory.read]
        by_cases hy : a = y
        · have : y ≠ x := by omega
          simp [hy, this]
        · simp only [if_neg hy]
          exact ih hw

theorem Memory.writeBytes_wf {m : Memory} (x : Nat) (bs : List Byte) (h : Memory.wf m = true) :
    Memory.wf (Memory.writeBytes m x bs) = true := by
  induction bs generalizing m x with
  | nil => exact h
  | cons b bs ih => exact ih (x + 1) (Memory.write_wf x b h)

/-- Reading after writing bytes at rising addresses. -/
theorem Memory.read_writeBytes {m : Memory} (x y : Nat) (bs : List Byte) (h : Memory.wf m = true) :
    Memory.read (Memory.writeBytes m x bs) y =
      if h' : x ≤ y ∧ y < x + bs.length then bs[y - x] else Memory.read m y := by
  induction bs generalizing m x with
  | nil =>
    have : ¬ (x ≤ y ∧ y < x + ([] : List Byte).length) := by simp
    simp [Memory.writeBytes]
  | cons b bs ih =>
    rw [Memory.writeBytes, ih (x + 1) (Memory.write_wf x b h), Memory.read_write _ _ _ h]
    simp only [List.length_cons]
    by_cases h1 : x + 1 ≤ y ∧ y < x + 1 + bs.length
    · have h2 : x ≤ y ∧ y < x + (bs.length + 1) := by omega
      rw [dif_pos h1, dif_pos h2]
      have : y - x = (y - (x + 1)) + 1 := by omega
      simp [this]
    · rw [dif_neg h1]
      by_cases h3 : y = x
      · subst h3
        simp
      · have h2 : ¬ (x ≤ y ∧ y < x + (bs.length + 1)) := by omega
        rw [dif_neg h2, if_neg h3]

/-- Writes below a bound list no address at or above it. -/
theorem Memory.write_inside {m : Memory} {cap x : Nat} (v : Byte) (hm : ∀ cell ∈ m, cell.1 < cap) (hx : x < cap) :
    ∀ cell ∈ Memory.write m x v, cell.1 < cap := by
  intro cell hc
  rcases Memory.mem_write hc with hc | rfl
  · exact hm cell hc
  · exact hx

theorem Memory.writeBytes_inside {m : Memory} {cap x : Nat} (bs : List Byte) (hm : ∀ cell ∈ m, cell.1 < cap)
    (hx : x + bs.length ≤ cap) : ∀ cell ∈ Memory.writeBytes m x bs, cell.1 < cap := by
  induction bs generalizing m x with
  | nil => exact hm
  | cons b bs ih =>
    simp only [List.length_cons] at hx
    exact ih (Memory.write_inside b hm (by omega)) (by omega)

/-- Two buffers in canonical form that read alike everywhere are the same list. -/
theorem Memory.ext_of_read {m m' : Memory} (h : Memory.wf m = true) (h' : Memory.wf m' = true)
    (hr : ∀ x, Memory.read m x = Memory.read m' x) : m = m' := by
  induction m generalizing m' with
  | nil =>
    cases m' with
    | nil => rfl
    | cons c rest =>
      obtain ⟨a, b⟩ := c
      have hb := ((Memory.wf_cons_iff a b rest).1 h').1
      have := hr a
      simp [Memory.read] at this
      exact absurd this.symm hb
  | cons c rest ih =>
    obtain ⟨a, b⟩ := c
    obtain ⟨hb, hf, hw⟩ := (Memory.wf_cons_iff a b rest).1 h
    cases m' with
    | nil =>
      have := hr a
      simp [Memory.read] at this
      exact absurd this hb
    | cons c' rest' =>
      obtain ⟨a', b'⟩ := c'
      obtain ⟨hb', hf', hw'⟩ := (Memory.wf_cons_iff a' b' rest').1 h'
      have haa : a = a' := by
        rcases lt_trichotomy a a' with hlt | heq | hgt
        · have := hr a
          have hne : a' ≠ a := by omega
          simp [Memory.read, hne, Memory.read_below hf' (show a < a' + 1 by omega)] at this
          exact absurd this hb
        · exact heq
        · have := hr a'
          have hne : a ≠ a' := by omega
          simp [Memory.read, hne, Memory.read_below hf (show a' < a + 1 by omega)] at this
          exact absurd this.symm hb'
      subst haa
      have hbb : b = b' := by simpa [Memory.read] using hr a
      subst hbb
      congr 1
      refine ih hw hw' fun x => ?_
      by_cases hx : a = x
      · subst hx
        rw [Memory.read_below hf (by omega), Memory.read_below hf' (by omega)]
      · simpa [Memory.read, hx] using hr x

/-- The buffer after reset has the canonical form. -/
theorem Memory.reset_wf (c : Params) : Memory.wf (State.resetWith c).msg = true := rfl

/-- `MemWrite(addr, 1, v)` in terms of `MemRead`. -/
theorem memWrite1_read {s : State} (h : Memory.wf s.msg = true) (a y : Nat) (v : Byte) :
    memRead1 (memWrite1 s a v) y = if y = a then v else memRead1 s y :=
  Memory.read_write a y v h

/-- `MemWrite(addr, 8, v)` in terms of `MemRead`: byte `i` of the word at `addr + i`. -/
theorem memWrite8_read {s : State} (h : Memory.wf s.msg = true) (a y : Nat) (v : Word) :
    memRead1 (memWrite8 s a v) y = if a ≤ y ∧ y < a + 8 then byteAt v (y - a) else memRead1 s y := by
  have key : ∀ i, i < 8 → (bytes8 v)[i]? = some (byteAt v i) := by
    intro i hi
    interval_cases i <;> rfl
  show Memory.read (Memory.writeBytes s.msg a (bytes8 v)) y = _
  rw [Memory.read_writeBytes _ _ _ h]
  have hlen : (bytes8 v).length = 8 := rfl
  by_cases hy : a ≤ y ∧ y < a + 8
  · rw [if_pos hy, dif_pos (by rw [hlen]; exact hy)]
    have := key (y - a) (by omega)
    rw [List.getElem?_eq_getElem (by rw [hlen]; omega)] at this
    exact Option.some.inj this
  · rw [if_neg hy, dif_neg (by rw [hlen]; exact hy)]
    rfl

end Sys2Proof.Machine
end

