-- ==== Sys2Proof/Laws/Ops.lean ====
section
/-! SUPPORT. What each shared operation of the meanings can do, said once. -/

namespace Sys2Proof.Machine

@[simp] theorem complete_eq_next (s t : State) : complete s = .next t ↔ s = t :=
  ⟨fun h => by injection h, fun h => h ▸ rfl⟩

/-- `unlessFaulted`: with the latch set nothing but the answer, else the command. -/
theorem unlessFaulted_eq (s : State) (f : State → State) :
    (s.fault = true ∧ unlessFaulted s f = s.raise .eFaulted) ∨ (s.fault = false ∧ unlessFaulted s f = f s) := by
  unfold unlessFaulted
  cases h : s.fault <;> simp

theorem unlessFaulted_of_clear {s : State} (h : s.fault = false) (f : State → State) : unlessFaulted s f = f s := by
  simp [unlessFaulted, h]

theorem unlessFaulted_of_latched {s : State} (h : s.fault = true) (f : State → State) :
    unlessFaulted s f = s.raise .eFaulted := by simp [unlessFaulted, h]

/-- `requireHash`: `E_NOINIT` while `HV = 0`, else the command. -/
theorem requireHash_eq (s : State) (f : State → State) :
    (s.hv = false ∧ requireHash s f = s.raise .eNoinit) ∨ (s.hv = true ∧ requireHash s f = f s) := by
  unfold requireHash
  cases h : s.hv <;> simp

/-- `requireRange`: `E_RANGE` when the access leaves the buffer, else the command. -/
theorem requireRange_eq (s : State) (n : Nat) (f : State → State) :
    (s.cfg.msgCap.toNat < s.ma.toNat + n ∧ requireRange s n f = s.raise .eRange) ∨
      (s.ma.toNat + n ≤ s.cfg.msgCap.toNat ∧ requireRange s n f = f s) := by
  unfold requireRange accessOutOfRange
  by_cases h : s.cfg.msgCap.toNat < s.ma.toNat + n
  · simp [h]
  · exact .inr ⟨by omega, by simp [h]⟩

/-- `requireIdle`: `E_BUSY` while a search is in progress, else the command. -/
theorem requireIdle_eq (s : State) (f : State → State) :
    (s.run = true ∧ requireIdle s f = s.raise .eBusy) ∨ (s.run = false ∧ requireIdle s f = f s) := by
  unfold requireIdle
  cases h : s.run <;> simp

/-- `requireRun`: `E_NOTRUN` while no search is in progress, else the command. -/
theorem requireRun_eq (s : State) (f : State → State) :
    (s.run = false ∧ requireRun s f = s.raise .eNotrun) ∨ (s.run = true ∧ requireRun s f = f s) := by
  unfold requireRun
  cases h : s.run <;> simp

/-- A response is its status, then its datum. -/
theorem rsp_status (st : Status) (d : Word) : (rsp st d).extractLsb' 64 8 = st.code :=
  BitVec.extractLsb'_append_eq_left

theorem rsp_data (st : Status) (d : Word) : (rsp st d).extractLsb' 0 64 = d :=
  BitVec.extractLsb'_append_eq_right

/-- Different statuses have different numbers. -/
theorem Status.code_injective {a b : Status} (h : a.code = b.code) : a = b := by
  revert h
  revert a b
  intro a b
  cases a <;> cases b <;> decide

/-- Two responses are the same word only with the same status and the same datum. -/
theorem rsp_inj {a b : Status} {d e : Word} : rsp a d = rsp b e ↔ a = b ∧ d = e := by
  constructor
  · intro h
    have h1 := congrArg (fun r : ResponseWord => r.extractLsb' 64 8) h
    have h2 := congrArg (fun r : ResponseWord => r.extractLsb' 0 64) h
    simp only [rsp_status, rsp_data] at h1 h2
    exact ⟨Status.code_injective h1, h2⟩
  · rintro ⟨rfl, rfl⟩
    rfl

end Sys2Proof.Machine
end

