-- ==== Sys2Proof/Laws/PerInstr.lean ====
section
/-! SUPPORT. Laws about every command as syntax, one lemma per constructor of `Instr`. -/

namespace Sys2Proof.Laws.EncodesItsRow

/-- The command's word is of its own row of the opcode map: under the row's mask it is the row's match, so its `OP` is the row's
and its reserved bits are 0 (30_encoding.md R71, R73); and its operands fit its format (R72). -/
def Statement (i : Instr) : Prop := encode i &&& i.rowMask = i.rowMatch ∧ i.wellFormed = true

/-- A word of `OP` and `ARG` is of its row when `ARG` keeps out of the reserved bits. -/
theorem of_arg {i : Instr} (h : i.arg &&& i.format.reservedMask = 0) : encode i &&& i.rowMask = i.rowMatch := by
  unfold encode Instr.rowMask Instr.rowMatch
  rw [BitVec.and_append, h]
  congr 1
  exact BitVec.and_allOnes

/-- A field of `n` low bits keeps out of the bits above it. -/
theorem setWidth_and {n : Nat} (v : BitVec n) (mask : BitVec 64) (h : ∀ k, k < n → mask.getLsbD k = false) :
    v.setWidth 64 &&& mask = 0 := by
  ext k hk
  by_cases hkn : k < n
  · have := h k hkn
    rw [BitVec.getLsbD_eq_getElem hk] at this
    simp [this]
  · simp [BitVec.getLsbD_of_ge v k (by omega)]

theorem low32 : ∀ k, k < 32 → (Format.reservedMask .L).getLsbD k = false := by decide
theorem low8 : ∀ k, k < 8 → (Format.reservedMask .B).getLsbD k = false := by decide
theorem low8' : ∀ k, k < 8 → (Format.reservedMask .S8).getLsbD k = false := by decide
theorem low2 : ∀ k, k < 2 → (Format.reservedMask .S2).getLsbD k = false := by decide

theorem fits0 : Format.operandsFit .N [] = true := rfl
theorem fits64 (v : BitVec 64) : Format.operandsFit .W [v.toNat] = true := by
  simpa [Format.operandsFit, Format.operandWidths, fitsWidths] using v.isLt
theorem fits32 (v : BitVec 32) : Format.operandsFit .L [v.toNat] = true := by
  simpa [Format.operandsFit, Format.operandWidths, fitsWidths] using v.isLt
theorem fits3232 (v w : BitVec 32) : Format.operandsFit .P [v.toNat, w.toNat] = true := by
  simpa [Format.operandsFit, Format.operandWidths, fitsWidths] using ⟨v.isLt, w.isLt⟩
theorem fits8 (v : BitVec 8) : Format.operandsFit .B [v.toNat] = true := by
  simpa [Format.operandsFit, Format.operandWidths, fitsWidths] using v.isLt
theorem fits8' (v : BitVec 8) : Format.operandsFit .S8 [v.toNat] = true := by
  simpa [Format.operandsFit, Format.operandWidths, fitsWidths] using v.isLt
theorem fits2 (v : BitVec 2) : Format.operandsFit .S2 [v.toNat] = true := by
  simpa [Format.operandsFit, Format.operandWidths, fitsWidths] using v.isLt

theorem nop : Statement .nop := ⟨by decide, fits0⟩
theorem hinit (len : BitVec 64) : Statement (.hinit len) := ⟨of_arg BitVec.and_zero, fits64 len⟩
theorem hchunk (k : BitVec 64) : Statement (.hchunk k) := ⟨of_arg BitVec.and_zero, fits64 k⟩
theorem htail (w : BitVec 64) : Statement (.htail w) := ⟨of_arg BitVec.and_zero, fits64 w⟩
theorem hfin : Statement .hfin := ⟨by decide, fits0⟩
theorem hread : Statement .hread := ⟨by decide, fits0⟩
theorem fhash (n : BitVec 32) : Statement (.fhash n) := ⟨of_arg (setWidth_and n _ low32), fits32 n⟩
theorem phash (n total : BitVec 32) : Statement (.phash n total) := ⟨of_arg BitVec.and_zero, fits3232 n total⟩
theorem invtm (hash : BitVec 64) : Statement (.invtm hash) := ⟨of_arg BitVec.and_zero, fits64 hash⟩
theorem mseta (addr : BitVec 32) : Statement (.mseta addr) := ⟨of_arg (setWidth_and addr _ low32), fits32 addr⟩
theorem mwr8 (b : BitVec 8) : Statement (.mwr8 b) := ⟨of_arg (setWidth_and b _ low8), fits8 b⟩
theorem mwr64 (data : BitVec 64) : Statement (.mwr64 data) := ⟨of_arg BitVec.and_zero, fits64 data⟩
theorem mrd8 : Statement .mrd8 := ⟨by decide, fits0⟩
theorem mrd64 : Statement .mrd64 := ⟨by decide, fits0⟩
theorem arst : Statement .arst := ⟨by decide, fits0⟩
theorem anext : Statement .anext := ⟨by decide, fits0⟩
theorem achk (b : BitVec 8) : Statement (.achk b) := ⟨of_arg (setWidth_and b _ low8), fits8 b⟩
theorem tins (hash : BitVec 64) : Statement (.tins hash) := ⟨of_arg BitVec.and_zero, fits64 hash⟩
theorem tsize : Statement .tsize := ⟨by decide, fits0⟩
theorem tclr : Statement .tclr := ⟨by decide, fits0⟩
theorem tprobe (p : BitVec 64) : Statement (.tprobe p) := ⟨of_arg BitVec.and_zero, fits64 p⟩
theorem sstart : Statement .sstart := ⟨by decide, fits0⟩
theorem srun (n : BitVec 64) : Statement (.srun n) := ⟨of_arg BitVec.and_zero, fits64 n⟩
theorem sstop : Statement .sstop := ⟨by decide, fits0⟩
theorem rrd (sel : BitVec 2) : Statement (.rrd sel) := ⟨of_arg (setWidth_and sel _ low2), fits2 sel⟩
theorem rpop : Statement .rpop := ⟨by decide, fits0⟩
theorem crd (idx : BitVec 8) : Statement (.crd idx) := ⟨of_arg (setWidth_and idx _ low8'), fits8' idx⟩
theorem reset : Statement .reset := ⟨by decide, fits0⟩

end Sys2Proof.Laws.EncodesItsRow
end

