-- ==== Sys2Proof/Laws/Search.lean ====
section
/-! SUPPORT. What the loop over the slots, the search step and the loop of `SRUN` can do, said once each
(44_searcher.md R174 to R177, R180). -/

namespace Sys2Proof.Machine

/-- What one slot's verdict says about it. -/
theorem judgeSlot_cases (c : Params) (x : List Byte) (p : Word) (t : Slot) :
    (judgeSlot c x p t = .skip ∧ ¬ (t.inBucket (sig p) = true ∧ validTail (candidate p t) = true)) ∨
      (judgeSlot c x p t = .hit (candidateKey x p t) ∧ t.inBucket (sig p) = true ∧ validTail (candidate p t) = true ∧
        forwardHash c (candidateKey x p t) = t.hash) ∨
      (judgeSlot c x p t = .violation ∧ t.inBucket (sig p) = true ∧ validTail (candidate p t) = true ∧
        forwardHash c (candidateKey x p t) ≠ t.hash) := by
  unfold judgeSlot
  by_cases h1 : t.inBucket (sig p) = true
  · by_cases h2 : validTail (candidate p t) = true
    · by_cases h3 : forwardHash c (candidateKey x p t) = t.hash <;> simp [h1, h2, h3]
    · simp [h1, h2]
  · simp [h1]

/-- The loop never changes a slot but for its `pend` bit, and that only from 1 to 0. -/
theorem matchSlots_slots (c : Params) (x : List Byte) (p : Word) (ts : List Slot) :
    List.Forall₂ (fun t t' => t'.hash = t.hash ∧ t'.trim = t.trim ∧ (t'.pend = true → t.pend = true)) ts
      (matchSlots c x p ts).slots := by
  induction ts with
  | nil => exact .nil
  | cons t ts ih =>
    unfold matchSlots
    rcases judgeSlot_cases c x p t with ⟨h, _⟩ | ⟨h, _⟩ | ⟨h, _⟩ <;> rw [h]
    · exact .cons ⟨rfl, rfl, id⟩ ih
    · exact .cons ⟨rfl, rfl, fun h => absurd h (by simp)⟩ ih
    · exact List.forall₂_same.2 fun t _ => ⟨rfl, rfl, id⟩

@[simp] theorem matchSlots_slots_length (c : Params) (x : List Byte) (p : Word) (ts : List Slot) :
    (matchSlots c x p ts).slots.length = ts.length := (matchSlots_slots c x p ts).length_eq.symm

/-- Appending records touches the result FIFO only. -/
theorem appendRecords_eq (rs : List Record) (s : State) :
    rs.foldl State.appendRecord s =
      s.setResults (rs.foldl State.appendRecord s).res (rs.foldl State.appendRecord s).rn := by
  induction rs generalizing s with
  | nil => rfl
  | cons r rs ih =>
    rw [List.foldl_cons, ih]
    rfl

/-- The match touches the target store and the result FIFO only, and not `TN`. -/
theorem applyMatch_eq (s : State) (r : MatchResult) :
    s.applyMatch r =
      (s.setTargets (r.slots ++ s.tgt.drop s.tn.toNat) s.tn).setResults (s.applyMatch r).res (s.applyMatch r).rn := by
  unfold State.applyMatch
  exact appendRecords_eq _ _

/-- How a search step ends: with the match applied and the latch set, or with step 5 done. -/
theorem searchStep_cases (s : State) :
    (s.matchStep.violated = true ∧ searchStep s = .violation (s.applyMatch s.matchStep).latchFault) ∨
      (s.matchStep.violated = false ∧ searchStep s = .done (s.applyMatch s.matchStep).endStep) := by
  unfold searchStep
  cases h : s.matchStep.violated <;> simp [h]

/-- Step 5: one more counted, and the search ended with nothing pending, ended with the last one examined, or moved on. -/
theorem endStep_cases (s : State) :
    (s.pendingCount = 0 ∧ s.endStep = (s.setPcnt (s.pcnt + 1)).setSearchFlags false true s.fx) ∨
      (0 < s.pendingCount ∧ s.dig.next? = none ∧ s.endStep = (s.setPcnt (s.pcnt + 1)).setSearchFlags false s.fe true) ∨
      (∃ d, 0 < s.pendingCount ∧ s.dig.next? = some d ∧ s.endStep = (s.setPcnt (s.pcnt + 1)).setDig d) := by
  unfold State.endStep
  by_cases h : s.pendingCount = 0
  · simp [h]
  · have h' : 0 < s.pendingCount := by omega
    cases hd : s.dig.next? with
    | none => simp [h, h', hd]
    | some d => simp [h, h', hd]

/-- The loop of `SRUN` with a search in progress and a step to do. -/
theorem runSteps_succ {s : State} (h : s.run = true) (n : Nat) (c : Word) :
    runSteps (n + 1) c s =
      match searchStep s with
      | .done t => runSteps n (c + 1) t
      | .violation t => t.answer .eConsist c := by
  cases hs : searchStep s <;> simp [runSteps, h, hs]

/-- The loop of `SRUN` once the search has ended. -/
theorem runSteps_ended {s : State} (h : s.run = false) (n : Nat) (c : Word) : runSteps n c s = s.answer .ok c := by
  cases n <;> simp [runSteps, h]

end Sys2Proof.Machine
end

