-- ==== Sys2Proof/Tests/Slice0.lean ====
section
/-! SUPPORT. Tests of the model, on small states. Expected words and numbers are those of spec/opcode_table.json and of
95_test_vectors.md, whose section or program is named. The `witness_` theorems show, for each statement of Obligations.lean that has
hypotheses, a concrete state and operands that meet them, clause by clause, at the ends of the ranges. -/

namespace Sys2Proof.Tests

open Sys2Proof.Machine

/-! ### Small states -/

/-- The instance of program P4: two slots, sixteen bytes. -/
def small : Params := { Config.reference with tgtCap := 2, msgCap := 16 }

/-- Its reset state. -/
def idle : State := State.resetWith small

/-- The slot of "       !abcdefg" (seven spaces, section 2.2), which prefix number 1 resolves. -/
def spacesSlot : Slot := ⟨0x57078D7B0BED3A86, 0x2E03206763055116, true⟩

/-- Its record. -/
def spacesRecord : Record := ⟨0x57078D7B0BED3A86, [32, 32, 32, 32, 32, 32, 32, 33, 97, 98, 99, 100, 101, 102, 103, 0]⟩

/-- One hash inserted. -/
def loaded : State := { idle with tgt := [spacesSlot, Slot.zero], tn := 1 }

/-- A search on prefix number 0, which resolves nothing. -/
def running : State := { loaded with run := true }

/-- The same search on prefix number 1, which ends it. -/
def atHit : State := { running with dig := ⟨0, 0, 0, 0, 0, 0, 0, 1⟩, pcnt := 1 }

/-- The end state of that search: one record to read. -/
def holding : State :=
  { loaded with
    tgt := [{ spacesSlot with pend := false }, Slot.zero], dig := ⟨0, 0, 0, 0, 0, 0, 0, 1⟩, pcnt := 2, fe := true
    res := [spacesRecord, Record.zero], rn := 1 }

/-- The start state of vector V-FX (section 3.5), with two slots: the last prefix, and a slot it does not resolve. -/
def lastPrefix : State :=
  { idle with
    tgt := [⟨0, 0, true⟩, Slot.zero], tn := 1, run := true, dig := ⟨93, 93, 93, 93, 93, 93, 93, 93⟩, pcnt := 0x0015A7FF487A80FF }

/-- Program P5 before its failing step: a wrong `MINV`, the slot that fails in second place. -/
def faulty : State :=
  { State.resetWith { small with minv := 0x5F7A0EA7E59B19BF } with
    tgt := [⟨0x1A627AF97A3CEF41, 0x1CF7F83A14E44275, true⟩, ⟨0x9CC9C33498A95EFB, 0xC10128B859B2A203, true⟩]
    tn := 2, run := true, dig := ⟨0, 0, 0, 0, 0, 4, 36, 75⟩, pcnt := 38803 }

/-- The same with the failing slot first and alone. -/
def faultyFirst : State := { faulty with tgt := [⟨0x9CC9C33498A95EFB, 0xC10128B859B2A203, true⟩, Slot.zero], tn := 1 }

/-- The fault latched. -/
def latched : State := { idle with fault := true }

/-- An accumulator in use. -/
def streaming (h : Word) : State := { idle with h := h, hv := true }

/-- A buffer whose last byte is listed. -/
def lastByte : State := { idle with msg := [(15, 0xAA)] }

/-! ### One step of the machine -/

/-- The state a command leaves. -/
def after (i : Instr) (s : State) : State :=
  match exec i s with
  | .next t => t
  | _ => s

/-- The response a command gives. -/
def answer (i : Instr) (s : State) : Option ResponseWord := (after i s).rsps.head?

/-- The state a step leaves. -/
def afterStep (s : State) : State :=
  match step s with
  | .next t => t
  | _ => s

/-- The host's next word. -/
def issue (w : CommandWord) (s : State) : State := { s with cmds := [w] }

theorem exec_after (i : Instr) (s : State) : exec i s = .next (after i s) := by
  cases i <;> rfl

/-! ### Well-formedness: an operand list that each format refuses (30_encoding.md R71, R72) -/

theorem test_formatN_refuses_an_operand : Format.N.operandsFit [0] = false := by decide
theorem test_formatW_refuses_no_operand_and_two_to_the_64 :
    Format.W.operandsFit [] = false ∧ Format.W.operandsFit [2 ^ 64] = false := by decide
theorem test_formatL_refuses_two_to_the_32 : Format.L.operandsFit [2 ^ 32] = false := by decide
theorem test_formatP_refuses_one_operand_and_a_wide_total :
    Format.P.operandsFit [8] = false ∧ Format.P.operandsFit [8, 2 ^ 32] = false := by decide
theorem test_formatB_refuses_256 : Format.B.operandsFit [256] = false := by decide
theorem test_formatS2_refuses_4 : Format.S2.operandsFit [4] = false := by decide
theorem test_formatS8_refuses_256_and_two_operands :
    Format.S8.operandsFit [256] = false ∧ Format.S8.operandsFit [1, 2] = false := by decide
theorem test_every_format_takes_its_largest_operands :
    Format.N.operandsFit [] = true ∧ Format.W.operandsFit [2 ^ 64 - 1] = true ∧ Format.L.operandsFit [2 ^ 32 - 1] = true ∧
    Format.P.operandsFit [2 ^ 32 - 1, 2 ^ 32 - 1] = true ∧ Format.B.operandsFit [255] = true ∧
    Format.S2.operandsFit [3] = true ∧ Format.S8.operandsFit [255] = true := by decide

/-! ### Decoding: words written out from the encodings of spec/opcode_table.json -/

theorem test_rows_have_the_mask_and_match_of_the_table :
    ([.nop, .hinit 15, .hchunk 0x6F77206F6C6C6568, .htail 0x0073657420646C72, .hfin, .hread, .fhash 15, .phash 8 15,
     .invtm 0x1A627AF97A3CEF41, .mseta 8, .mwr8 0x68, .mwr64 0x6F77206F6C6C6568, .mrd8, .mrd64, .arst, .anext,
     .achk 0x5C, .tins 0x1A627AF97A3CEF41, .tsize, .tclr, .tprobe 0xFEAD4F4FF98DCD49, .sstart, .srun 1, .sstop,
     .rrd 2, .rpop, .crd 0x0D, .reset] : List Instr).map (fun i => (i.rowMask, i.rowMatch)) =
      [(0xFFFFFFFFFFFFFFFFFF, 0x000000000000000000), (0xFF0000000000000000, 0x010000000000000000),
       (0xFF0000000000000000, 0x020000000000000000), (0xFF0000000000000000, 0x030000000000000000),
       (0xFFFFFFFFFFFFFFFFFF, 0x040000000000000000), (0xFFFFFFFFFFFFFFFFFF, 0x050000000000000000),
       (0xFFFFFFFFFF00000000, 0x060000000000000000), (0xFF0000000000000000, 0x070000000000000000),
       (0xFF0000000000000000, 0x080000000000000000), (0xFFFFFFFFFF00000000, 0x100000000000000000),
       (0xFFFFFFFFFFFFFFFF00, 0x110000000000000000), (0xFF0000000000000000, 0x120000000000000000),
       (0xFFFFFFFFFFFFFFFFFF, 0x130000000000000000), (0xFFFFFFFFFFFFFFFFFF, 0x140000000000000000),
       (0xFFFFFFFFFFFFFFFFFF, 0x200000000000000000), (0xFFFFFFFFFFFFFFFFFF, 0x210000000000000000),
       (0xFFFFFFFFFFFFFFFF00, 0x220000000000000000), (0xFF0000000000000000, 0x300000000000000000),
       (0xFFFFFFFFFFFFFFFFFF, 0x310000000000000000), (0xFFFFFFFFFFFFFFFFFF, 0x320000000000000000),
       (0xFF0000000000000000, 0x330000000000000000), (0xFFFFFFFFFFFFFFFFFF, 0x400000000000000000),
       (0xFF0000000000000000, 0x410000000000000000), (0xFFFFFFFFFFFFFFFFFF, 0x420000000000000000),
       (0xFFFFFFFFFFFFFFFFFC, 0x480000000000000000), (0xFFFFFFFFFFFFFFFFFF, 0x490000000000000000),
       (0xFFFFFFFFFFFFFFFF00, 0xF00000000000000000), (0xFFFFFFFFFFFFFFFFFF, 0xFF0000000000000000)] := by decide

theorem test_decode_system : decode 0x000000000000000000 = .ok .nop ∧
    decode (0b11110000#8 ++ 0#56 ++ 0b00001101#8) = .ok (.crd 0x0D) ∧ decode (0b11111111#8 ++ 0#64) = .ok .reset := by decide
theorem test_decode_hashcore_words : decode 0x01000000000000000F = .ok (.hinit 15) ∧
    decode 0x026F77206F6C6C6568 = .ok (.hchunk 0x6F77206F6C6C6568) ∧
    decode 0x030073657420646C72 = .ok (.htail 0x0073657420646C72) ∧
    decode 0x081A627AF97A3CEF41 = .ok (.invtm 0x1A627AF97A3CEF41) := by decide
theorem test_decode_hashcore_others : decode (0b00000100#8 ++ 0#64) = .ok .hfin ∧ decode (0b00000101#8 ++ 0#64) = .ok .hread ∧
    decode (0b00000110#8 ++ 0#32 ++ 15#32) = .ok (.fhash 15) ∧ decode (0b00000111#8 ++ 15#32 ++ 8#32) = .ok (.phash 8 15) := by
  decide
theorem test_decode_message_buffer : decode (0b00010000#8 ++ 0#32 ++ 8#32) = .ok (.mseta 8) ∧
    decode (0b00010001#8 ++ 0#56 ++ 0x68#8) = .ok (.mwr8 0x68) ∧
    decode 0x126F77206F6C6C6568 = .ok (.mwr64 0x6F77206F6C6C6568) ∧
    decode (0b00010011#8 ++ 0#64) = .ok .mrd8 ∧ decode (0b00010100#8 ++ 0#64) = .ok .mrd64 := by decide
theorem test_decode_alphabet : decode (0b00100000#8 ++ 0#64) = .ok .arst ∧ decode (0b00100001#8 ++ 0#64) = .ok .anext ∧
    decode (0b00100010#8 ++ 0#56 ++ 0x5C#8) = .ok (.achk 0x5C) := by decide
theorem test_decode_target_index : decode 0x301A627AF97A3CEF41 = .ok (.tins 0x1A627AF97A3CEF41) ∧
    decode (0b00110001#8 ++ 0#64) = .ok .tsize ∧ decode (0b00110010#8 ++ 0#64) = .ok .tclr ∧
    decode 0x33FEAD4F4FF98DCD49 = .ok (.tprobe 0xFEAD4F4FF98DCD49) := by decide
theorem test_decode_searcher : decode (0b01000000#8 ++ 0#64) = .ok .sstart ∧
    decode 0x41FFFFFFFFFFFFFFFF = .ok (.srun 0xFFFFFFFFFFFFFFFF) ∧ decode (0b01000010#8 ++ 0#64) = .ok .sstop := by decide
theorem test_decode_results : decode (0b01001000#8 ++ 0#62 ++ 0b10#2) = .ok (.rrd 2) ∧
    decode (0b01001001#8 ++ 0#64) = .ok .rpop := by decide
theorem test_decode_refuses_unknown_and_reserved : decode 0x500000000000000000 = .error .unknownOpcode ∧
    decode 0x040000000000000001 = .error .reservedBit ∧ decode 0x060000000100000000 = .error .reservedBit ∧
    decode 0x480000000000000004 = .error .reservedBit ∧ decode 0x110000000000000100 = .error .reservedBit ∧
    decode 0xF00000000000000100 = .error .reservedBit := by decide
theorem test_decode_table_word : decodeTableWord 72 0x126F77206F6C6C6568 = some (.mwr64 0x6F77206F6C6C6568) ∧
    decodeTableWord 72 0xFF0000000000000001 = none := by decide

/-! ### HashCore (sections 2.1 to 2.4) -/

theorem test_primitive_functions : xsh 0xFFFFFFFFFFFFFFFF = 0xFFFFFFFFFFFE0000 ∧
    chunkMix Config.reference 0x0000800000000000 = 0x0F0127935BD1E995 ∧
    chunkMix { Config.reference with chunkMix := .sequential } 0x0000800000000000 = 0x6A4A8328685A90B9 ∧
    finalize Config.reference 0x0123456789ABCDEF = 0x1B8D96B11CF99946 ∧
    invertTrailingMix Config.reference 0x0123456789ABCDEF = 0xD7C4097130CCD13D := by decide
theorem test_forward_hash_of_24_bytes :
    forwardHash Config.reference ((List.range 24).map fun i => BitVec.ofNat 8 (i + 1)) = 0x9EEF86ADA2064E11 := by decide
theorem test_hinit : (after (.hinit 15) idle).h = 0xA3A5D1A2614CAFBB ∧ (after (.hinit 15) idle).hv = true ∧
    answer (.hinit 15) idle = some 0x000000000000000000 := by decide
theorem test_hchunk : answer (.hchunk 0x6F77206F6C6C6568) (streaming 0xA3A5D1A2614CAFBB) = some 0x00FEAD4F4FF98DCD49 ∧
    answer (.hchunk 1) idle = some 0x040000000000000000 := by decide
theorem test_hchunk_sequential :
    answer (.hchunk 0x6F77206F6C6C6568) { streaming 0xA3A5D1A2614CAFBB with cfg := { small with chunkMix := .sequential } } =
      some 0x00A36E72650E66CF93 := by decide
theorem test_htail : answer (.htail 0x0073657420646C72) (streaming 0xFEAD4F4FF98DCD49) = some 0x00C233141912E48A57 := by decide
theorem test_hfin : answer .hfin (streaming 0xC233141912E48A57) = some 0x001A627AF97A3CEF41 := by decide
theorem test_hread : answer .hread (streaming 0xA3A5D1A2614CAFBB) = some 0x00A3A5D1A2614CAFBB ∧
    answer .hread idle = some 0x040000000000000000 := by decide
theorem test_fhash : answer (.fhash 8) idle = some 0x007208F7FA198A2D81 ∧ answer (.fhash 17) idle = some 0x060000000000000000 := by
  decide
theorem test_fhash_of_abc :
    answer (.fhash 3) { idle with msg := [(0, 97), (1, 98), (2, 99)] } = some 0x009CC9C33498A95EFB := by decide
theorem test_phash : answer (.phash 8 8) idle = some 0x00AD4C7A69435485C8 ∧
    answer (.phash 8 7) idle = some 0x050000000000000000 := by decide
theorem test_phash_precondition_before_range : answer (.phash 24 15) idle = some 0x050000000000000000 ∧
    answer (.phash 24 32) idle = some 0x060000000000000000 := by decide
theorem test_invtm : answer (.invtm 0x1A627AF97A3CEF41) idle = some 0x00FEDE2A3BD9E9A13B := by decide

/-! ### The message buffer (program P4) -/

theorem test_mseta : (after (.mseta 15) idle).ma = 15 ∧ answer (.mseta 16) idle = some 0x060000000000000000 := by decide
theorem test_mwr8_at_the_last_byte : (after (.mwr8 0xAA) { idle with ma := 15 }).msg = [(15, 0xAA)] ∧
    (after (.mwr8 0xAA) { idle with ma := 15 }).ma = 16 := by decide
theorem test_mwr8_of_zero_unlists : (after (.mwr8 0) { lastByte with ma := 15 }).msg = [] := by decide
theorem test_mwr64 : (after (.mwr64 0x6F77206F6C6C6568) idle).msg =
    [(0, 0x68), (1, 0x65), (2, 0x6C), (3, 0x6C), (4, 0x6F), (5, 0x20), (6, 0x77), (7, 0x6F)] := by decide
theorem test_mwr64_beyond_the_end_writes_nothing : after (.mwr64 1) { idle with ma := 15 } =
    { idle with ma := 15, rsps := [0x060000000000000000] } := by decide
theorem test_mrd8 : answer .mrd8 { lastByte with ma := 15 } = some 0x0000000000000000AA ∧
    answer .mrd8 { lastByte with ma := 16 } = some 0x060000000000000000 := by decide
theorem test_mrd64 : answer .mrd64 { lastByte with ma := 8 } = some 0x00AA00000000000000 ∧
    answer .mrd64 { lastByte with ma := 9 } = some 0x060000000000000000 := by decide

/-! ### The alphabet (section 3.2) -/

theorem test_arst : (after .arst { idle with ac := 94 }).ac = 0 := by decide
theorem test_anext_skips_92 : answer .anext { idle with ac := 59 } = some 0x00000000000000005B ∧
    answer .anext { idle with ac := 60 } = some 0x00000000000000005D := by decide
theorem test_anext_at_the_end : answer .anext { idle with ac := 93 } = some 0x00000000000000007E ∧
    answer .anext { idle with ac := 94 } = some 0x090000000000000000 ∧ (after .anext { idle with ac := 94 }).ac = 94 := by decide
theorem test_achk : ([0, 31, 32, 33, 91, 92, 93, 126, 127, 128, 255].map fun b => (answer (.achk b) idle).map BitVec.toNat) =
    [0, 0, 1, 1, 1, 0, 1, 1, 0, 0, 0].map some := by decide
theorem test_validTail : ([0x0067666564636261, 0x0167666564636261, 0x00676665645C6261, 0x0067666564636200, 0x007E7E7E7E7E7E20,
    0x007F666564636261, 0].map validTail) = [true, false, false, false, true, false, false] := by decide

/-! ### The target index (sections 3.3, programs P2 to P4) -/

theorem test_tins : (after (.tins 0x1A627AF97A3CEF41) idle).tgt = [⟨0x1A627AF97A3CEF41, 0xFEDE2A3BD9E9A13B, true⟩, ⟨0, 0, false⟩] ∧
    (after (.tins 0x1A627AF97A3CEF41) idle).tn = 1 := by decide
theorem test_tins_into_a_full_store : answer (.tins 3) { loaded with tn := 2 } = some 0x070000000000000000 ∧
    answer (.tins 0x57078D7B0BED3A86) { loaded with tn := 2 } = some 0x000000000000000000 := by decide
theorem test_tsize_counts_pending : answer .tsize loaded = some 0x000000000000000001 ∧
    answer .tsize holding = some 0x000000000000000000 := by decide
theorem test_tclr_empties_index_and_fifo : after .tclr holding = { holding with tn := 0, rn := 0, fe := false, rsps := [0] } := by
  decide
theorem test_tprobe_of_program_P3 :
    let s := { idle with tgt := [⟨0x403DF5F6B7113E25, 0xC4BD2A924CE72315, false⟩, ⟨0x7395E4F20F8719D0, 0xC4B82E954AD92316, true⟩], tn := 2 }
    answer (.tprobe 0xC4DF48F02E854177) s = some 0x000000000000000001 ∧ answer (.tprobe 0) s = some 0x000000000000000000 := by decide

/-! ### The searcher (section 3.5, programs P2 and P5) -/

theorem test_sstart : after .sstart { holding with tgt := [spacesSlot, Slot.zero] } =
    { loaded with run := true, res := [spacesRecord, Record.zero], rsps := [1] } := by decide
theorem test_sstart_with_nothing_pending : (after .sstart holding).fe = true ∧ (after .sstart holding).run = false ∧
    answer .sstart holding = some 0 := by decide
theorem test_srun_finds_the_key : after (.srun 5) running = { holding with rsps := [2] } := by decide +kernel
theorem test_srun_exhausts_the_prefixes : after (.srun 5) lastPrefix =
    { lastPrefix with run := false, fx := true, pcnt := 0x0015A7FF487A8100, rsps := [1] } := by decide +kernel
theorem test_failed_consistency_check : after (.srun 5) faulty =
    { faulty with run := false, fault := true, rsps := [0x0A0000000000000000] } := by decide +kernel
theorem test_odometer_carry : (⟨5, 93, 93, 93, 93, 93, 93, 93⟩ : Odometer).next? = some ⟨6, 0, 0, 0, 0, 0, 0, 0⟩ ∧
    (⟨93, 93, 93, 93, 93, 93, 93, 93⟩ : Odometer).next? = none ∧ (⟨0, 0, 0, 0, 0, 9, 54, 45⟩ : Odometer).index = 84645 := by decide
theorem test_sstop : after .sstop atHit = { atHit with run := false, rsps := [0] } ∧
    answer .sstop idle = some 0x030000000000000000 := by decide

/-! ### The result FIFO and the system commands (programs P2 to P5, section 3.4) -/

theorem test_rrd : answer (.rrd 0) holding = some 0x0057078D7B0BED3A86 ∧ answer (.rrd 1) holding = some 0x002120202020202020 ∧
    answer (.rrd 2) holding = some 0x000067666564636261 := by decide
theorem test_rrd_range_before_empty : answer (.rrd 3) idle = some 0x060000000000000000 ∧
    answer (.rrd 0) idle = some 0x080000000000000000 := by decide
theorem test_rpop : (after .rpop { holding with res := [Record.zero, spacesRecord], rn := 2 }).records = [spacesRecord] ∧
    answer .rpop idle = some 0x080000000000000000 := by decide
theorem test_nop : after .nop latched = { latched with rsps := [0] } := by decide
theorem test_crd_status : answer (.crd 0x00) running = some 0x000000000000000021 ∧
    answer (.crd 0x00) holding = some 0x000000000000000012 := by decide
theorem test_crd_others : answer (.crd 0x05) idle = some 0x000000001000000002 ∧
    answer (.crd 0x09) atHit = some 0x002120202020202020 ∧ answer (.crd 0x0D) idle = some 0x060000000000000000 := by decide
theorem test_reset : after .reset { atHit with fault := true, ma := 5, hv := true } = { idle with rsps := [0] } := by decide

/-! ### The step -/

theorem test_step_answers_an_illegal_word : step (issue 0x500000000000000000 latched) =
    .next { latched with rsps := [0x010000000000000000] } := rfl
theorem test_step_idle : step idle = .next idle := rfl
theorem test_withFetchWord_runs_next : (afterStep (State.reset.withFetchWord 72 0x01000000000000000F)).h = 0xA3A5D1A2614CAFBB := by
  decide

/-! ### The assembler text (30_encoding.md R78, R79; program P1) -/

theorem test_assemble_lines : assembleLine "MWR8 'r'".toList = some [0x110000000000000072] ∧
    assembleLine "PHASH 8, 15 ; n, total".toList = some [0x070000000F00000008] ∧
    assembleLine "HCHUNK 0x6F77206F6C6C6568".toList = some [0x026F77206F6C6C6568] ∧
    assembleLine "RRD 4".toList = none ∧ assembleLine "; a comment".toList = some [] := by decide
theorem test_assemble_pseudo : assembleLine "SEARCH".toList = some [0x400000000000000000, 0x41FFFFFFFFFFFFFFFF] ∧
    assembleLine "MSTR 4, \"ab\"".toList = some [0x100000000000000004, 0x110000000000000061, 0x110000000000000062] := by decide

/-! ### Witnesses: states that meet the invariants (10_state.md R34) -/

theorem idle_inv : idle.Inv where
  tgt_length := by decide
  res_length := by decide
  tn_le := by decide
  rn_le := by decide
  ma_le := by decide
  ac_le := by decide
  digits_le := by decide
  msg_wf := by decide
  msg_inside := by decide
  trims := by decide
  hashes_distinct := by decide
  running := by decide
  ends_exclusive := by decide
  progress := by decide
  records_good := fun _ h => absurd h (by simp [State.records, idle, State.resetWith])
  records_distinct := by decide

/-- The invariants speak of the fields they name only, so a state with an empty FIFO is checked field by field. -/
theorem inv_of_checks {s : State} (h1 : s.tgt.length = s.cfg.tgtCap.toNat ∧ s.res.length = s.cfg.tgtCap.toNat)
    (h2 : s.tn.toNat ≤ s.cfg.tgtCap.toNat ∧ s.rn.toNat ≤ s.cfg.tgtCap.toNat ∧ s.ma.toNat ≤ s.cfg.msgCap.toNat ∧ s.ac.toNat ≤ 94)
    (h3 : ∀ d ∈ s.dig.digits, d.toNat ≤ 93) (h4 : Memory.wf s.msg = true) (h5 : ∀ cell ∈ s.msg, cell.1 < s.cfg.msgCap.toNat)
    (h6 : ∀ t ∈ s.allocated, t.trim = invertTrailingMix s.cfg t.hash) (h7 : (s.allocated.map Slot.hash).Nodup)
    (h8 : s.run = true → 0 < s.pendingCount ∧ s.fe = false ∧ s.fx = false ∧ s.fault = false) (h9 : (s.fe && s.fx) = false)
    (h10 : s.run = true → s.pcnt.toNat = s.dig.index) (h11 : s.rn = 0) : s.Inv where
  tgt_length := h1.1
  res_length := h1.2
  tn_le := h2.1
  rn_le := h2.2.1
  ma_le := h2.2.2.1
  ac_le := h2.2.2.2
  digits_le := h3
  msg_wf := h4
  msg_inside := h5
  trims := h6
  hashes_distinct := h7
  running := h8
  ends_exclusive := h9
  progress := h10
  records_good := fun _ h => absurd h (by simp [State.records, h11])
  records_distinct := by simp [State.records, h11]

theorem loaded_inv : loaded.Inv := inv_of_checks (by decide) (by decide) (by decide) (by decide) (by decide) (by decide)
  (by decide) (by decide) (by decide) (by decide) (by decide)
theorem running_inv : running.Inv := inv_of_checks (by decide) (by decide) (by decide) (by decide) (by decide) (by decide)
  (by decide) (by decide) (by decide) (by decide) (by decide)
theorem atHit_inv : atHit.Inv := inv_of_checks (by decide) (by decide) (by decide) (by decide) (by decide) (by decide)
  (by decide) (by decide) (by decide) (by decide) (by decide)
theorem lastPrefix_inv : lastPrefix.Inv := inv_of_checks (by decide) (by decide) (by decide) (by decide) (by decide) (by decide)
  (by decide) (by decide) (by decide) (by decide) (by decide)
theorem faulty_inv : faulty.Inv := inv_of_checks (by decide) (by decide) (by decide) (by decide) (by decide) (by decide)
  (by decide) (by decide) (by decide) (by decide) (by decide)
theorem faultyFirst_inv : faultyFirst.Inv := inv_of_checks (by decide) (by decide) (by decide) (by decide) (by decide)
  (by decide) (by decide) (by decide) (by decide) (by decide) (by decide)
theorem latched_inv : latched.Inv := inv_of_checks (by decide) (by decide) (by decide) (by decide) (by decide) (by decide)
  (by decide) (by decide) (by decide) (by decide) (by decide)

/-- The invariants hold of a state with a record, too. -/
theorem holding_inv : holding.Inv where
  tgt_length := by decide
  res_length := by decide
  tn_le := by decide
  rn_le := by decide
  ma_le := by decide
  ac_le := by decide
  digits_le := by decide
  msg_wf := by decide
  msg_inside := by decide
  trims := by decide
  hashes_distinct := by decide
  running := by decide
  ends_exclusive := by decide
  progress := by decide
  records_good := by
    intro r h
    obtain rfl : r = spacesRecord := by simpa [State.records, holding] using h
    exact ⟨by decide, by decide, by decide, by decide, { spacesSlot with pend := false }, by decide, by decide, by decide⟩
  records_distinct := by decide

/-! ### Witnesses: encoding -/

theorem witness_EncodingADecodedWordGivesItBack : decode 0xF000000000000000FF = .ok (.crd 0xFF) ∧
    decode 0x480000000000000003 = .ok (.rrd 3) := by decide
theorem witness_DecoderSelectsTheRowByMaskAndMatch :
    decode 0x1100000000000000FF = .ok (.mwr8 0xFF) ∧
    (0x1100000000000000FF : CommandWord) &&& (Instr.mwr8 0).rowMask = (Instr.mwr8 0).rowMatch := by decide
theorem witness_IllegalWordsAreTheUnknownAndTheReserved :
    decode 0xFE0000000000000000 = .error .unknownOpcode ∧ decode 0xFF8000000000000000 = .error .reservedBit := by decide

/-! ### Witnesses: the step and the errors -/

theorem witness_StepRunsTheDecodedCommand : (issue 0xFF0000000000000000 idle).cmds = [0xFF0000000000000000] ∧
    decode 0xFF0000000000000000 = .ok .reset ∧ idle.cmds = [] := by decide
theorem witness_IllegalWordAnswersAndChangesNothing : (issue 0xFF0000000000000001 latched).cmds = [0xFF0000000000000001] ∧
    ∀ i : Instr, (0xFF0000000000000001 : CommandWord) &&& i.rowMask ≠ i.rowMatch := by
  refine ⟨rfl, fun i => ?_⟩
  cases i <;> simp only [Instr.rowMask, Instr.rowMatch, Instr.format, Instr.opcode] <;> decide
theorem witness_EveryWordGetsExactlyOneResponse :
    (issue 0x100000000000000000 idle).cmds = [0x100000000000000000] ∧ decode 0x100000000000000000 = .ok (.mseta 0) ∧
    returnsNothing (.mseta 0) = true ∧ (afterStep (issue 0x050000000000000000 idle)).rsps = [0x040000000000000000] ∧
    (afterStep (issue 0x500000000000000000 idle)).rsps = [0x010000000000000000] := by decide
theorem witness_FailedCommandChangesNothing :
    (issue 0x050000000000000000 idle).cmds = [0x050000000000000000] ∧
    step (issue 0x050000000000000000 idle) = .next { idle with rsps := [0x040000000000000000] } ∧
    ¬ HasStatus 0x040000000000000000 .ok ∧ ¬ HasStatus 0x040000000000000000 .eConsist :=
  ⟨rfl, rfl, by unfold HasStatus; decide⟩
theorem witness_LatchedFaultRefusesAllButThree : latched.fault = true ∧ (∃ idx, Instr.crd 0 = .crd idx) ∧
    ¬ (Instr.hread = .nop ∨ Instr.hread = .reset ∨ ∃ idx, Instr.hread = .crd idx) := by
  exact ⟨rfl, ⟨0, rfl⟩, by simp⟩
theorem witness_CommandsRaiseOnlyTheirOwnErrors :
    exec .hread idle = .next (after .hread idle) ∧ (after .hread idle).rsps = 0x040000000000000000 :: idle.rsps ∧
    exec .hread latched = .next (after .hread latched) ∧ (after .hread latched).rsps = 0x0B0000000000000000 :: latched.rsps :=
  ⟨exec_after _ _, by decide, exec_after _ _, by decide⟩
theorem witness_FailedConsistencyCheckLatchesTheFault_first :
    let p := partialForwardHash faultyFirst.cfg faultyFirst.dig.bytes 15
    let sl : Slot := ⟨0x9CC9C33498A95EFB, 0xC10128B859B2A203, true⟩
    faultyFirst.Inv ∧ faultyFirst.run = true ∧ faultyFirst.allocated[0]? = some sl ∧
    (sl.pend && (sl.trim &&& 0xFF80808080808080 == p &&& 0xFF80808080808080) && validTail (p ^^^ sl.trim)) = true ∧
    forwardHash faultyFirst.cfg (faultyFirst.dig.bytes ++ (bytes8 (p ^^^ sl.trim)).take 7) ≠ sl.hash ∧
    faultyFirst.allocated.take 0 = [] := by
  exact ⟨faultyFirst_inv, by decide, by decide, by decide, by decide, by decide⟩
theorem witness_FailedConsistencyCheckLatchesTheFault_last :
    let p := partialForwardHash faulty.cfg faulty.dig.bytes 15
    let matched (a : Slot) : Bool := a.pend && (a.trim &&& 0xFF80808080808080 == p &&& 0xFF80808080808080) && validTail (p ^^^ a.trim)
    let sl : Slot := ⟨0x9CC9C33498A95EFB, 0xC10128B859B2A203, true⟩
    faulty.Inv ∧ faulty.run = true ∧ faulty.allocated[1]? = some sl ∧ matched sl = true ∧
    forwardHash faulty.cfg (faulty.dig.bytes ++ (bytes8 (p ^^^ sl.trim)).take 7) ≠ sl.hash ∧
    ∀ a ∈ faulty.allocated.take 1, matched a = true →
      forwardHash faulty.cfg (faulty.dig.bytes ++ (bytes8 (p ^^^ a.trim)).take 7) = a.hash := by
  exact ⟨faulty_inv, by decide, by decide, by decide, by decide, by decide⟩
theorem witness_OrderOfErrorsDecidesThreeCases :
    ((24#32).toNat % 8 ≠ 0 ∨ (15#32).toNat < (24#32).toNat) ∧ idle.cfg.msgCap.toNat < (24#32).toNat ∧
    idle.fault = false ∧ idle.rn = 0 ∧
    (let full := { running with tn := 2 }
     full.fault = false ∧ full.run = true ∧ full.knows 3 = false ∧ full.tn = full.cfg.tgtCap) := by decide

/-! ### Witnesses: HashCore -/

theorem witness_InverseStepsUndoTheForwardSteps : Config.reference.MinvCorrect ∧ small.MinvCorrect := by decide
theorem witness_InvertedHashIsLeadHashXorTail : small.MinvCorrect ∧
    ([104, 101, 108, 108, 111, 32, 119, 111] : List Byte).length = 8 ∧
    ([114, 108, 100, 32, 116, 101, 115] : List Byte).length = 7 := by decide
theorem witness_TailOfAPreimageIsRecoveredDirectly :
    let x : List Byte := [104, 101, 108, 108, 111, 32, 119, 111]
    let tail : List Byte := [114, 108, 100, 32, 116, 101, 115]
    small.MinvCorrect ∧ x.length = 8 ∧ tail.length = 7 ∧ forwardHash small (x ++ tail) = 0x1A627AF97A3CEF41 ∧
    forwardHash small (x ++ tail) ≠ 0 := by decide
theorem witness_ForwardHashSplitsAtTheLastFullChunk :
    ([] : List Byte).length % 8 = 0 ∧ (List.replicate 16 (0 : Byte)).length % 8 = 0 ∧
    0 < (List.replicate 15 (0 : Byte)).length % 8 ∧ 0 < (List.replicate 1 (0 : Byte)).length % 8 := by decide
theorem witness_StreamingComputesTheForwardHash :
    let b : List Byte := [97, 98, 99, 100, 101, 102, 103, 104, 105]
    let hold := encode (.hinit (BitVec.ofNat 64 b.length)) :: (chunkWords b).map (fun k => encode (.hchunk k))
    let finish := (if b.length % 8 = 0 then [] else [encode (.htail (packTail (tailBytes b)))]) ++ [encode .hfin]
    idle.fault = false ∧ { idle with cmds := hold ++ finish ++ [] }.cmds = hold ++ finish ++ [] ∧
    hold ++ finish = [0x010000000000000009, 0x026867666564636261, 0x030000000000000069, 0x040000000000000000] ∧
    { idle with cmds := hold ++ [encode .hread] ++ [] }.cmds = hold ++ [encode .hread] ++ [] := by decide
theorem witness_HinitLoadsLengthTimesMultiplier : idle.fault = false ∧ (streaming 1).fault = false := by decide
theorem witness_StreamingCommandsUpdateTheAccumulator : idle.fault = false ∧ idle.hv = false ∧
    (streaming 1).fault = false ∧ (streaming 1).hv = true ∧ (streaming 1).cfg.chunkMix = .literal ∧
    { streaming 1 with cfg := { small with chunkMix := .sequential } }.cfg.chunkMix = .sequential := by decide
theorem witness_FhashAnswersTheHashOfTheBuffer : idle.fault = false ∧ idle.cfg.msgCap.toNat < (17#32).toNat ∧
    (16#32).toNat ≤ lastByte.cfg.msgCap.toNat ∧ (List.replicate 15 (0 : Byte) ++ [0xAA]).length = (16#32).toNat ∧
    ∀ a, a < (16#32).toNat → (List.replicate 15 (0 : Byte) ++ [0xAA])[a]? = some (memRead1 lastByte a) := by decide
theorem witness_PhashAnswersTheHashOfTheChunks : idle.fault = false ∧
    ((4#32).toNat % 8 ≠ 0 ∨ (15#32).toNat < (4#32).toNat) ∧ ((16#32).toNat % 8 ≠ 0 ∨ (15#32).toNat < (16#32).toNat) ∧
    ((24#32).toNat % 8 = 0 ∧ (24#32).toNat ≤ (24#32).toNat ∧ idle.cfg.msgCap.toNat < (24#32).toNat) ∧
    (16#32).toNat % 8 = 0 ∧ (16#32).toNat ≤ (16#32).toNat ∧ (16#32).toNat ≤ lastByte.cfg.msgCap.toNat ∧
    (List.replicate 15 (0 : Byte) ++ [0xAA]).length = (16#32).toNat ∧
    ∀ a, a < (16#32).toNat → (List.replicate 15 (0 : Byte) ++ [0xAA])[a]? = some (memRead1 lastByte a) := by decide
theorem witness_InvtmAnswersTheFourStepInverse : idle.fault = false := rfl

/-! ### Witnesses: the message buffer and the alphabet -/

theorem witness_MsetaSetsTheAddressBelowTheCapacity : idle.fault = false ∧ idle.cfg.msgCap.toNat ≤ (16#32).toNat ∧
    (15#32).toNat < idle.cfg.msgCap.toNat ∧ (0#32).toNat < idle.cfg.msgCap.toNat := by decide
theorem witness_Mwr8StoresOneByte : lastByte.fault = false ∧
    { lastByte with ma := 16 }.cfg.msgCap.toNat < { lastByte with ma := 16 }.ma.toNat + 1 ∧
    { lastByte with ma := 15 }.ma.toNat + 1 ≤ { lastByte with ma := 15 }.cfg.msgCap.toNat ∧
    Memory.wf { lastByte with ma := 15 }.msg = true := by decide
theorem witness_Mwr64StoresEightBytes : lastByte.fault = false ∧
    { lastByte with ma := 9 }.cfg.msgCap.toNat < { lastByte with ma := 9 }.ma.toNat + 8 ∧
    { lastByte with ma := 8 }.ma.toNat + 8 ≤ { lastByte with ma := 8 }.cfg.msgCap.toNat ∧
    Memory.wf { lastByte with ma := 8 }.msg = true := by decide
theorem witness_ReadsAnswerTheBytesAtTheAddress : lastByte.fault = false ∧
    { lastByte with ma := 16 }.cfg.msgCap.toNat < { lastByte with ma := 16 }.ma.toNat + 1 ∧
    { lastByte with ma := 15 }.ma.toNat + 1 ≤ { lastByte with ma := 15 }.cfg.msgCap.toNat ∧
    { lastByte with ma := 9 }.cfg.msgCap.toNat < { lastByte with ma := 9 }.ma.toNat + 8 ∧
    { lastByte with ma := 8 }.ma.toNat + 8 ≤ { lastByte with ma := 8 }.cfg.msgCap.toNat := by decide
theorem witness_StoredWordIsReadBack :
    let ws := [encode (.mseta 8), encode (.mwr64 0x6F77206F6C6C6568), encode (.mseta 8), encode .mrd64]
    lastByte.fault = false ∧ Memory.wf lastByte.msg = true ∧ (8#32).toNat + 8 ≤ lastByte.cfg.msgCap.toNat ∧
    { lastByte with cmds := ws }.cfg = lastByte.cfg ∧ { lastByte with cmds := ws }.cmds = ws := by decide
theorem witness_ArstRestartsAndAchkTestsMembership : idle.fault = false ∧
    (32 ≤ (32#8).toNat ∧ (32#8).toNat ≤ 126 ∧ (32#8).toNat ≠ 92) ∧ (32 ≤ (126#8).toNat ∧ (126#8).toNat ≤ 126 ∧ (126#8).toNat ≠ 92) ∧
    (32 ≤ (93#8).toNat ∧ (93#8).toNat ≤ 126 ∧ (93#8).toNat ≠ 92) ∧
    (31#8).toNat < 32 ∧ 126 < (127#8).toNat ∧ (92#8).toNat = 92 := by decide
theorem witness_AnextAnswersTheNextAlphabetByte : idle.fault = false ∧ 94 ≤ { idle with ac := 94 }.ac.toNat ∧
    { idle with ac := 93 }.ac.toNat < 94 := by decide
theorem witness_AlphabetIsDeliveredInOrderThenEnds : idle.fault = false ∧
    { idle with ac := 94, cmds := encode .arst :: List.replicate 95 (encode .anext) ++ [] }.cmds =
      encode .arst :: List.replicate 95 (encode .anext) ++ [] := ⟨rfl, rfl⟩

/-! ### Witnesses: the target index -/

theorem witness_TinsInsertsANewHashOnce_busy_and_known : running.fault = false ∧ running.run = true ∧
    loaded.fault = false ∧ loaded.run = false ∧
    ∃ i sl, i < loaded.tn.toNat ∧ loaded.tgt[i]? = some sl ∧ sl.hash = 0x57078D7B0BED3A86 :=
  ⟨rfl, rfl, rfl, rfl, 0, spacesSlot, by decide, rfl, rfl⟩
theorem witness_TinsInsertsANewHashOnce_full_and_new :
    let full := { loaded with tn := 2 }
    (full.fault = false ∧ full.run = false ∧ full.tn = full.cfg.tgtCap ∧
      ∀ i sl, i < full.tn.toNat → full.tgt[i]? = some sl → sl.hash ≠ 3) ∧
    loaded.fault = false ∧ loaded.run = false ∧ loaded.tn ≠ loaded.cfg.tgtCap ∧
      ∀ i sl, i < loaded.tn.toNat → loaded.tgt[i]? = some sl → sl.hash ≠ 3 := by
  have no : ∀ sl ∈ loaded.tgt, sl.hash ≠ 3 := by decide
  exact ⟨⟨rfl, rfl, rfl, fun i sl _ h => no sl (List.mem_of_getElem? h)⟩, rfl, rfl, by decide,
    fun i sl _ h => no sl (List.mem_of_getElem? h)⟩
theorem witness_InsertingTwiceCountsOnce : loaded.Inv ∧ loaded.run = false ∧ loaded.fault = false ∧
    loaded.tn.toNat < loaded.cfg.tgtCap.toNat ∧ loaded.knows 3 = false ∧ loaded.knows 0x57078D7B0BED3A86 = true ∧
    (∀ hash, exec (.tins hash) loaded = .next (after (.tins hash) loaded)) ∧
    ∀ hash, exec (.tins hash) (after (.tins hash) loaded) = .next (after (.tins hash) (after (.tins hash) loaded)) :=
  ⟨loaded_inv, by decide, by decide, by decide, by decide, by decide, fun _ => exec_after _ _, fun _ => exec_after _ _⟩
theorem witness_IndexIsCountedProbedAndCleared : running.fault = false ∧ running.run = true ∧ holding.fault = false ∧
    holding.run = false := by decide
theorem witness_SignatureFilterPrunesNoValidCandidate :
    let tail : List Byte := [97, 98, 99, 100, 101, 102, 103]
    validTail 0x0067666564636261 = true ∧ validTail ((0x2E64460207663377 : Word) ^^^ 0x2E03206763055116) = true ∧
    small.MinvCorrect ∧ (List.replicate 8 (255 : Byte)).length = 8 ∧ tail.length = 7 ∧ ∀ b ∈ tail, inAlpha b = true := by
  decide
theorem witness_AllocatedSlotsOnlyLosePend : exec (.tins 3) loaded = .next (after (.tins 3) loaded) ∧
    Instr.tins 3 ≠ .tclr ∧ Instr.tins 3 ≠ .reset ∧ 0 < loaded.tn.toNat ∧ loaded.tgt[0]? = some spacesSlot ∧
    (after (.tins 3) loaded).tn = loaded.tn + 1 :=
  ⟨exec_after _ _, by decide, by decide, by decide, by decide, by decide⟩

/-! ### Witnesses: the searcher -/

theorem witness_OdometerCountsInLexicographicOrder :
    (⟨0, 0, 0, 0, 0, 0, 0, 93⟩ : Odometer).legal ∧ (⟨0, 0, 0, 0, 0, 0, 0, 93⟩ : Odometer).next? = some ⟨0, 0, 0, 0, 0, 0, 1, 0⟩ ∧
    (⟨93, 93, 93, 93, 93, 93, 93, 93⟩ : Odometer).legal := by
  refine ⟨?_, by decide, ?_⟩ <;> unfold Odometer.legal <;> decide
theorem witness_SstartBeginsAndSstopAbandonsASearch : running.fault = false ∧ running.run = true ∧
    loaded.fault = false ∧ loaded.run = false ∧ 0 < loaded.pendingCount ∧
    holding.fault = false ∧ holding.run = false ∧ holding.pendingCount = 0 := by decide
theorem witness_OneSearchStepResolvesExactlyTheValidCandidates :
    (running.Inv ∧ running.cfg.MinvCorrect ∧ running.run = true) ∧ (atHit.Inv ∧ atHit.cfg.MinvCorrect ∧ atHit.run = true) ∧
    lastPrefix.Inv ∧ lastPrefix.cfg.MinvCorrect ∧ lastPrefix.run = true :=
  ⟨⟨running_inv, by decide, rfl⟩, ⟨atHit_inv, by decide, rfl⟩, lastPrefix_inv, by decide, rfl⟩
theorem witness_SrunExecutesUpToItsCount : idle.fault = false ∧ idle.run = false ∧ running.fault = false ∧
    running.run = true ∧ running.Inv ∧ running.cfg.MinvCorrect ∧
    exec (.srun 0xFFFFFFFFFFFFFFFF) running = .next (after (.srun 0xFFFFFFFFFFFFFFFF) running) :=
  ⟨rfl, rfl, rfl, rfl, running_inv, by decide, exec_after _ _⟩
theorem witness_SplittingARunChangesNothing : running.fault = false ∧ running.run = true ∧
    (1#64).toNat + (0xFFFFFFFFFFFFFFFE#64).toNat < 2 ^ 64 ∧ exec (.srun 1) running = .next (after (.srun 1) running) ∧
    (after (.srun 1) running).run = true ∧ exec (.srun 2) running = .next (after (.srun 2) running) ∧
    (after (.srun 2) running).run = false :=
  ⟨rfl, rfl, by decide, exec_after _ _, by decide +kernel, exec_after _ _, by decide +kernel⟩
theorem witness_IndexIsOwnedByTheSearch : running.run = true ∧ running.fault = false ∧
    exec (.tins 3) running = .next (after (.tins 3) running) ∧ exec (.srun 2) running = .next (after (.srun 2) running) ∧
    (after (.srun 2) running).tgt ≠ running.tgt :=
  ⟨rfl, rfl, exec_after _ _, exec_after _ _, by decide +kernel⟩
theorem witness_CorrectInverseNeverFaults : (issue 0 latched).Inv ∧ (issue 0 latched).cfg.MinvCorrect ∧
    step (issue 0 latched) = .next { latched with rsps := [0] } ∧ { latched with rsps := [0] }.fault = true :=
  ⟨inv_of_checks (by decide) (by decide) (by decide) (by decide) (by decide) (by decide) (by decide) (by decide) (by decide)
    (by decide) (by decide), by decide, rfl, rfl⟩
theorem witness_EveryNewRecordIsAPreimage : atHit.Inv ∧ exec (.srun 1) atHit = .next (after (.srun 1) atHit) ∧
    spacesRecord ∈ (after (.srun 1) atHit).records ∧ spacesRecord ∉ atHit.records :=
  ⟨atHit_inv, exec_after _ _, by decide +kernel, by decide⟩
theorem witness_SearchEndsWithinAllPrefixes : running.Inv ∧ running.cfg.MinvCorrect ∧ running.run = true ∧
    94 ^ 8 ≤ (6095689385410816#64).toNat ∧
    exec (.srun 6095689385410816) running = .next (after (.srun 6095689385410816) running) :=
  ⟨running_inv, by decide, rfl, by decide, exec_after _ _⟩

/-- Prefix number 1 is the least one that completes the slot. -/
theorem spacesSlot_firstHit : spacesSlot.FirstHit small ⟨0, 0, 0, 0, 0, 0, 0, 1⟩ where
  legal := by unfold Odometer.legal; decide
  hit := by unfold Slot.hitBy; decide
  least := by
    intro o _ h
    by_contra hlt
    have h1 : o.index < 1 := by simpa [Odometer.index] using hlt
    have zero : ∀ d : BitVec 7, d.toNat = 0 → d = 0 := fun d hd => BitVec.eq_of_toNat_eq hd
    have h0 : o = Odometer.zero := by
      unfold Odometer.index at h1
      cases o
      simp only [Odometer.zero, Odometer.mk.injEq]
      simp only at h1
      exact ⟨zero _ (by omega), zero _ (by omega), zero _ (by omega), zero _ (by omega), zero _ (by omega), zero _ (by omega),
        zero _ (by omega), zero _ (by omega)⟩
    subst h0
    exact absurd h (by unfold Slot.hitBy; decide)

theorem witness_CompleteSearchFindsTheLeastPreimage_hit : loaded.Inv ∧ loaded.cfg.MinvCorrect ∧ loaded.run = false ∧
    loaded.fault = false ∧ 94 ^ 8 ≤ (6095689385410816#64).toNat ∧ exec .sstart loaded = .next (after .sstart loaded) ∧
    (after .sstart loaded).run = true ∧
    exec (.srun 6095689385410816) (after .sstart loaded) = .next (after (.srun 6095689385410816) (after .sstart loaded)) ∧
    0 < loaded.tn.toNat ∧ loaded.tgt[0]? = some spacesSlot ∧ spacesSlot.pend = true ∧
    spacesSlot.FirstHit loaded.cfg ⟨0, 0, 0, 0, 0, 0, 0, 1⟩ :=
  ⟨loaded_inv, by decide, rfl, rfl, by decide, exec_after _ _, by decide, exec_after _ _, by decide, rfl, rfl, spacesSlot_firstHit⟩

/-- An instance in which the hash 0 has no preimage: with the multiplier 1, the last prefix byte stays in the top byte. -/
def plain : State :=
  { State.resetWith { small with m := 1, minv := 1 } with tgt := [⟨0, 0, true⟩, Slot.zero], tn := 1 }

theorem plain_no_hit (o : Odometer) (ho : o.legal) : ¬ (⟨0, 0, true⟩ : Slot).hitBy plain.cfg o := by
  intro h
  have h7 : byteAt (o.leadHash plain.cfg ^^^ (0 : Word)) 7 = 0 := ((validTail_iff _).1 h).1
  have hw : byteAt o.word 7 = alpha o.d7 := by
    unfold Odometer.word
    rw [byteAt_le64 _ _ (by decide)]
    rfl
  have hsame : byteAt (o.leadHash plain.cfg ^^^ (0 : Word)) 7 = byteAt o.word 7 := by
    have e : o.leadHash plain.cfg ^^^ (0 : Word) = 15#64 ^^^ (o.word ^^^ (o.word >>> 47)) := by
      simp [Odometer.leadHash, absorb, hashInit, chunkMix, plain, small, State.resetWith, Config.reference, Config.seed,
        Config.shiftAmount, Config.keyLen]
    rw [e]
    unfold byteAt
    refine BitVec.eq_of_getLsbD_eq fun i hi => ?_
    have hi' : ∀ k < 8, (15#64).getLsbD (56 + k) = false := by decide
    simp only [BitVec.getLsbD_extractLsb', BitVec.getLsbD_xor, BitVec.getLsbD_ushiftRight, hi' i hi]
    rw [BitVec.getLsbD_of_ge o.word (47 + (8 * 7 + i)) (by omega)]
    simp [hi]
  have hb : alpha o.d7 = 0 := by rw [← hw, ← hsame, h7]
  have hd : o.d7.toNat ≤ 93 := ho _ (by simp [Odometer.digits])
  have := inAlpha_bounds (inAlpha_alpha o.d7 hd)
  rw [hb] at this
  exact absurd this.1 (by decide)

theorem plain_inv : plain.Inv := inv_of_checks (by decide) (by decide) (by decide) (by decide) (by decide) (by decide)
  (by decide) (by decide) (by decide) (by decide) (by decide)

theorem witness_CompleteSearchFindsTheLeastPreimage_no_hit : plain.Inv ∧ plain.cfg.MinvCorrect ∧ plain.run = false ∧
    plain.fault = false ∧ 94 ^ 8 ≤ (0xFFFFFFFFFFFFFFFF#64).toNat ∧ exec .sstart plain = .next (after .sstart plain) ∧
    (after .sstart plain).run = true ∧
    exec (.srun 0xFFFFFFFFFFFFFFFF) (after .sstart plain) = .next (after (.srun 0xFFFFFFFFFFFFFFFF) (after .sstart plain)) ∧
    0 < plain.tn.toNat ∧ plain.tgt[0]? = some ⟨0, 0, true⟩ ∧
    ∀ o : Odometer, o.legal → ¬ (⟨0, 0, true⟩ : Slot).hitBy plain.cfg o :=
  ⟨plain_inv, by decide, rfl, rfl, by decide, exec_after _ _, by decide, exec_after _ _, by decide, rfl, plain_no_hit⟩
theorem witness_CompleteSearchIsTheDocumentsSearch : loaded.Inv ∧ loaded.cfg.MinvCorrect ∧ loaded.run = false ∧
    loaded.fault = false ∧ 94 ^ 8 ≤ (6095689385410816#64).toNat ∧ exec .sstart loaded = .next (after .sstart loaded) ∧
    (after .sstart loaded).run = true ∧
    exec (.srun 6095689385410816) (after .sstart loaded) = .next (after (.srun 6095689385410816) (after .sstart loaded)) :=
  ⟨loaded_inv, by decide, rfl, rfl, by decide, exec_after _ _, by decide, exec_after _ _⟩
theorem witness_SearchIsIndependentOfTheOtherUnits : (∃ n, Instr.srun 1 = .srun n) ∧
    exec (.srun 1) atHit = .next (after (.srun 1) atHit) ∧ exec .sstart loaded = .next (after .sstart loaded) ∧
    exec .sstop atHit = .next (after .sstop atHit) :=
  ⟨⟨1, rfl⟩, exec_after _ _, exec_after _ _, exec_after _ _⟩

/-! ### Witnesses: the result FIFO, the system commands, the whole-machine rules -/

theorem witness_RrdAnswersAWordOfTheHead : idle.fault = false ∧ idle.rn = 0 ∧ (2#2) ≠ 3 ∧ holding.fault = false ∧
    holding.rn ≠ 0 ∧ holding.res = spacesRecord :: [Record.zero] ∧ spacesRecord.key.length = 16 ∧
    spacesRecord.key[15]? = some 0 := by decide
theorem witness_RpopRemovesTheHead : idle.fault = false ∧ idle.rn = 0 ∧ holding.fault = false ∧ holding.rn ≠ 0 ∧
    holding.rn.toNat ≤ holding.res.length ∧
    { holding with rn := 2 }.rn ≠ 0 ∧ { holding with rn := 2 }.rn.toNat ≤ { holding with rn := 2 }.res.length := by decide
theorem witness_ReadingOutDeliversEveryRecordInOrder :
    let ws := (List.replicate holding.rn.toNat [encode (.rrd 0), encode (.rrd 1), encode (.rrd 2), encode .rpop]).flatten ++ []
    { holding with cmds := ws }.fault = false ∧ { holding with cmds := ws }.rn.toNat ≤ { holding with cmds := ws }.res.length ∧
    { holding with cmds := ws }.cmds = ws ∧ ws.length = 4 := by decide
theorem witness_CrdAnswersTheRegister : 0x0C < (0x0D#8).toNat ∧ 0x0C < (0xFF#8).toNat := by decide
theorem witness_FirstCommandsAfterReset : 16 ≤ small.msgCap.toNat ∧ 16 ≤ Config.reference.msgCap.toNat := by decide
theorem witness_FlagsChangeOnlyByTheirCommands_HV_RUN :
    (idle.hv = false ∧ (after (.hinit 1) idle).hv = true) ∧ ((streaming 1).hv = true ∧ (after .reset (streaming 1)).hv = false) ∧
    (loaded.run = false ∧ (after .sstart loaded).run = true) ∧ running.run = true ∧ (after .sstop running).run = false ∧
    ∀ i s, exec i s = .next (after i s) :=
  ⟨by decide, by decide, by decide, by decide, by decide, exec_after⟩
theorem witness_FlagsChangeOnlyByTheirCommands_FE_FX_FAULT :
    (idle.fe = false ∧ (after .sstart idle).fe = true) ∧ (holding.fe = true ∧ (after .tclr holding).fe = false) ∧
    (lastPrefix.fx = false ∧ (after (.srun 1) lastPrefix).fx = true) ∧
    ({ idle with fx := true }.fx = true ∧ (after .tclr { idle with fx := true }).fx = false) ∧
    (faulty.fault = false ∧ (after (.srun 1) faulty).fault = true) ∧ latched.fault = true ∧ (after .reset latched).fault = false := by
  refine ⟨?_, ?_, ?_, ?_, ?_, ?_, ?_⟩ <;> decide +kernel
theorem witness_ReadingHasOnlyTheNamedSideEffects :
    exec (.fhash 8) idle = .next (after (.fhash 8) idle) ∧ exec .mrd8 lastByte = .next (after .mrd8 lastByte) ∧
    exec .rpop holding = .next (after .rpop holding) ∧ exec .anext idle = .next (after .anext idle) ∧
    (after .mrd8 lastByte).ma ≠ lastByte.ma ∧ (after .rpop holding).rn ≠ holding.rn ∧ (after .anext idle).ac ≠ idle.ac :=
  ⟨exec_after _ _, exec_after _ _, exec_after _ _, exec_after _ _, by decide, by decide, by decide⟩
theorem witness_CursorAndOdometerMoveApart : exec .anext idle = .next (after .anext idle) ∧ Instr.anext ≠ .reset ∧
    (after .anext idle).ac ≠ idle.ac ∧ exec (.srun 1) running = .next (after (.srun 1) running) ∧ Instr.srun 1 ≠ .reset ∧
    (after (.srun 1) running).dig ≠ running.dig :=
  ⟨exec_after _ _, by decide, by decide, exec_after _ _, by decide, by decide +kernel⟩
theorem witness_EveryStepKeepsTheInvariants : (issue 0x410000000000000001 atHit).Inv ∧
    step (issue 0x410000000000000001 atHit) = .next (afterStep (issue 0x410000000000000001 atHit)) ∧
    (afterStep (issue 0x410000000000000001 atHit)).records = [spacesRecord] :=
  ⟨inv_of_checks (by decide) (by decide) (by decide) (by decide) (by decide) (by decide) (by decide) (by decide) (by decide)
    (by decide) (by decide), rfl, by decide +kernel⟩

end Sys2Proof.Tests
end

/-! ### How a command ends (30_encoding.md R76)

Said once for all 28 commands: a command ends by raising an error, by answering `OK`, or by `E_CONSIST`. Whatever it wrote before
its answer, it left the command channel and the parameters alone. -/

section
namespace Sys2Proof.Machine

/-- What no command touches before it answers: the words still waiting, the responses given, the parameters. -/
structure SameChannel (s u : State) : Prop where
  cmds : u.cmds = s.cmds
  rsps : u.rsps = s.rsps
  cfg : u.cfg = s.cfg

theorem SameChannel.refl (s : State) : SameChannel s s := ⟨rfl, rfl, rfl⟩

theorem SameChannel.trans {s t u : State} (h : SameChannel s t) (h' : SameChannel t u) : SameChannel s u :=
  ⟨h'.cmds.trans h.cmds, h'.rsps.trans h.rsps, h'.cfg.trans h.cfg⟩

/-- The ways a command can end. With `quiet` set it returns nothing: `DATA` 0 under `OK`, and no `E_CONSIST`, whose `DATA` counts
steps. -/
inductive CommandEnds (quiet : Bool) (s : State) : State → Prop where
  /-- By `State.raise`, from the state the command found: nothing was written and `DATA` is 0 (60_exceptions.md R222). -/
  | raised (e : Status) : CommandEnds quiet s (s.raise e)
  /-- Completion, with a datum unless the command returns nothing. -/
  | answered {u : State} {d : Word} (channel : SameChannel s u) (data : quiet = true → d = 0) :
      CommandEnds quiet s (u.answer .ok d)
  /-- A failed consistency check (44_searcher.md R175). -/
  | inconsistent {u : State} {c : Word} (channel : SameChannel s u) (loud : quiet = false) :
      CommandEnds quiet s (u.answer .eConsist c)

namespace CommandEnds

variable {q : Bool} {s t : State} {f : State → State}

/-- Completion of a command that returns a datum. -/
theorem returning {u : State} {d : Word} (channel : SameChannel s u) : CommandEnds false s (u.answer .ok d) :=
  .answered channel fun h => absurd h (by decide)

/-- Completion of a command that returns nothing, or returns 0. -/
theorem silent {u : State} (channel : SameChannel s u) : CommandEnds q s (u.answer .ok 0) :=
  .answered channel fun _ => rfl

/-- A test that raises an error may stand before a command. -/
theorem ite_raise {p : Prop} [Decidable p] {e : Status} (h : CommandEnds q s t) :
    CommandEnds q s (if p then s.raise e else t) := by
  split
  · exact .raised e
  · exact h

/-- A test that, by its law, raises an error or lets the command through. -/
theorem of_gate {raises passes : Prop} {e : Status} {u : State} (gate : (raises ∧ t = s.raise e) ∨ (passes ∧ t = u))
    (h : CommandEnds q s u) : CommandEnds q s t := by
  obtain ⟨_, rfl⟩ | ⟨_, rfl⟩ := gate
  · exact .raised e
  · exact h

theorem unlessFaulted (h : CommandEnds q s (f s)) : CommandEnds q s (unlessFaulted s f) := of_gate (unlessFaulted_eq s f) h

theorem requireHash (h : CommandEnds q s (f s)) : CommandEnds q s (requireHash s f) := of_gate (requireHash_eq s f) h

theorem requireRange {n : Nat} (h : CommandEnds q s (f s)) : CommandEnds q s (requireRange s n f) :=
  of_gate (requireRange_eq s n f) h

theorem requireIdle (h : CommandEnds q s (f s)) : CommandEnds q s (requireIdle s f) := of_gate (requireIdle_eq s f) h

theorem requireRun (h : CommandEnds q s (f s)) : CommandEnds q s (requireRun s f) := of_gate (requireRun_eq s f) h

end CommandEnds

/-! ### The search leaves the channel alone -/

theorem sameChannel_applyMatch (s : State) (r : MatchResult) : SameChannel s (s.applyMatch r) := by
  rw [applyMatch_eq]
  exact ⟨rfl, rfl, rfl⟩

theorem sameChannel_endStep (s : State) : SameChannel s s.endStep := by
  obtain ⟨_, e⟩ | ⟨_, _, e⟩ | ⟨_, _, _, e⟩ := endStep_cases s <;> rw [e] <;> exact ⟨rfl, rfl, rfl⟩

/-- `SRUN` ends with its count, under `OK` or under `E_CONSIST`, from whatever state `u` the steps done so far have led to. -/
theorem commandEnds_runSteps {s u : State} (channel : SameChannel s u) (n : Nat) (c : Word) :
    CommandEnds false s (runSteps n c u) := by
  induction n generalizing u c with
  | zero => exact .returning channel
  | succ n ih =>
    have matched := channel.trans (sameChannel_applyMatch u u.matchStep)
    cases hrun : u.run with
    | false =>
      rw [runSteps_ended hrun]
      exact .returning channel
    | true =>
      rw [runSteps_succ hrun]
      obtain ⟨_, e⟩ | ⟨_, e⟩ := searchStep_cases u <;> rw [e]
      · exact .inconsistent (matched.trans ⟨rfl, rfl, rfl⟩) rfl
      · exact ih (matched.trans (sameChannel_endStep _)) (c + 1)

/-! ### Every command ends in one of these ways -/

theorem commandEnds_execCrd (idx : BitVec 8) (s : State) : ∃ t, execCrd idx s = .next t ∧ CommandEnds false s t := by
  unfold execCrd
  cases s.csr idx.toNat with
  | none => exact ⟨_, rfl, .raised _⟩
  | some v => exact ⟨_, rfl, .returning (.refl s)⟩

/-- Each case names the tests its command makes, in their order, and how it answers after them. -/
theorem exec_commandEnds (i : Instr) (s : State) : ∃ t, exec i s = .next t ∧ CommandEnds (returnsNothing i) s t := by
  have here : SameChannel s s := .refl s
  cases i with
  | nop => exact ⟨_, rfl, .silent here⟩
  | hinit len => exact ⟨_, rfl, .unlessFaulted (.silent ⟨rfl, rfl, rfl⟩)⟩
  | hchunk k => exact ⟨_, rfl, .unlessFaulted (.requireHash (.returning ⟨rfl, rfl, rfl⟩))⟩
  | htail w => exact ⟨_, rfl, .unlessFaulted (.requireHash (.returning ⟨rfl, rfl, rfl⟩))⟩
  | hfin => exact ⟨_, rfl, .unlessFaulted (.requireHash (.returning ⟨rfl, rfl, rfl⟩))⟩
  | hread => exact ⟨_, rfl, .unlessFaulted (.requireHash (.returning here))⟩
  | fhash n => exact ⟨_, rfl, .unlessFaulted (.ite_raise (.returning here))⟩
  | phash n total => exact ⟨_, rfl, .unlessFaulted (.ite_raise (.ite_raise (.returning here)))⟩
  | invtm hash => exact ⟨_, rfl, .unlessFaulted (.returning here)⟩
  | mseta addr => exact ⟨_, rfl, .unlessFaulted (.ite_raise (.silent ⟨rfl, rfl, rfl⟩))⟩
  | mwr8 b => exact ⟨_, rfl, .unlessFaulted (.requireRange (.silent ⟨rfl, rfl, rfl⟩))⟩
  | mwr64 data => exact ⟨_, rfl, .unlessFaulted (.requireRange (.silent ⟨rfl, rfl, rfl⟩))⟩
  | mrd8 => exact ⟨_, rfl, .unlessFaulted (.requireRange (.returning ⟨rfl, rfl, rfl⟩))⟩
  | mrd64 => exact ⟨_, rfl, .unlessFaulted (.requireRange (.returning ⟨rfl, rfl, rfl⟩))⟩
  | arst => exact ⟨_, rfl, .unlessFaulted (.silent ⟨rfl, rfl, rfl⟩)⟩
  | anext => exact ⟨_, rfl, .unlessFaulted (.ite_raise (.returning ⟨rfl, rfl, rfl⟩))⟩
  | achk b => exact ⟨_, rfl, .unlessFaulted (.returning here)⟩
  | tins hash =>
    refine ⟨_, rfl, .unlessFaulted (.requireIdle ?_)⟩
    split
    · exact .silent here
    · exact .ite_raise (.returning ⟨rfl, rfl, rfl⟩)
  | tsize => exact ⟨_, rfl, .unlessFaulted (.returning here)⟩
  | tclr => exact ⟨_, rfl, .unlessFaulted (.requireIdle (.silent ⟨rfl, rfl, rfl⟩))⟩
  | tprobe p => exact ⟨_, rfl, .unlessFaulted (.returning here)⟩
  | sstart => exact ⟨_, rfl, .unlessFaulted (.requireIdle (.returning ⟨rfl, rfl, rfl⟩))⟩
  | srun n => exact ⟨_, rfl, .unlessFaulted (.requireRun (commandEnds_runSteps here n.toNat 0))⟩
  | sstop => exact ⟨_, rfl, .unlessFaulted (.requireRun (.silent ⟨rfl, rfl, rfl⟩))⟩
  | rrd sel => exact ⟨_, rfl, .unlessFaulted (.ite_raise (.ite_raise (.returning here)))⟩
  | rpop => exact ⟨_, rfl, .unlessFaulted (.ite_raise (.silent ⟨rfl, rfl, rfl⟩))⟩
  | crd idx => exact commandEnds_execCrd idx s
  | reset => exact ⟨_, rfl, .silent ⟨rfl, rfl, rfl⟩⟩

/-! ### What a step does with a word, and what the response it gives holds -/

theorem step_of_decode_ok {s : State} {w : CommandWord} {rest : List CommandWord} {i : Instr} (hs : s.cmds = w :: rest)
    (hw : decode w = .ok i) : step s = exec i (s.setCmds rest) := by
  simp [step, hs, hw]

theorem step_of_decode_error {s : State} {w : CommandWord} {rest : List CommandWord} {e : DecodeReject}
    (hs : s.cmds = w :: rest) (hw : decode w = .error e) : step s = .next ((s.setCmds rest).raise .eIllegal) := by
  simp [step, hs, hw, answerIllegal, complete]

theorem Status.code_le (st : Status) : st.code.toNat ≤ 0x0B := by cases st <;> decide

/-- However a command ends, it has given one response, of one of the twelve codes, with the `DATA` that R76 allows. -/
theorem CommandEnds.one_response {q : Bool} {s t : State} (h : CommandEnds q s t) :
    ∃ r : ResponseWord, t.cmds = s.cmds ∧ t.rsps = r :: s.rsps ∧ t.cfg = s.cfg ∧ (r.extractLsb' 64 8).toNat ≤ 0x0B ∧
      (r.extractLsb' 64 8 ≠ 0x00 → r.extractLsb' 64 8 ≠ 0x0A → r.extractLsb' 0 64 = 0) ∧
      (q = true → r.extractLsb' 0 64 = 0) := by
  cases h with
  | raised e =>
    refine ⟨rsp e 0, rfl, rfl, rfl, ?_, fun _ _ => rsp_data e 0, fun _ => rsp_data e 0⟩
    rw [rsp_status]
    exact e.code_le
  | @answered u d channel data =>
    refine ⟨rsp .ok d, channel.cmds, congrArg _ channel.rsps, channel.cfg, ?_, fun hok => ?_, fun hq => ?_⟩
    · rw [rsp_status]
      exact Status.ok.code_le
    · exact absurd (rsp_status .ok d) hok
    · rw [rsp_data, data hq]
  | @inconsistent u c channel loud =>
    refine ⟨rsp .eConsist c, channel.cmds, congrArg _ channel.rsps, channel.cfg, ?_, fun _ hcon => ?_, fun hq => ?_⟩
    · rw [rsp_status]
      exact Status.eConsist.code_le
    · exact absurd (rsp_status .eConsist c) hcon
    · exact absurd (loud.symm.trans hq) (by decide)

/-- Settles O8: an illegal word raises `E_ILLEGAL`, a legal one ends in one of the ways a command can end, and each of these
gives one response. -/
theorem everyWordGetsExactlyOneResponse : Obligations.EveryWordGetsExactlyOneResponse := by
  unfold Obligations.EveryWordGetsExactlyOneResponse
  intro s w rest hs
  cases hw : decode w with
  | error e =>
    obtain ⟨r, hcmds, hrsps, hcfg, hst, herr, -⟩ :=
      (CommandEnds.raised (quiet := true) (s := s.setCmds rest) .eIllegal).one_response
    exact ⟨_, r, step_of_decode_error hs hw, hcmds, hrsps, hcfg, hst, herr, fun i hi => nomatch hi⟩
  | ok i =>
    obtain ⟨t, ht, hends⟩ := exec_commandEnds i (s.setCmds rest)
    obtain ⟨r, hcmds, hrsps, hcfg, hst, herr, hquiet⟩ := hends.one_response
    refine ⟨t, r, (step_of_decode_ok hs hw).trans ht, hcmds, hrsps, hcfg, hst, herr, fun j hj hnothing => ?_⟩
    cases hj
    exact hquiet hnothing

end Sys2Proof.Machine
end

/-! ### HashCore: the steps and their inverses (40_hashcore.md R103 to R105)

Each inverse is stated once as an equivalence: a step gives `y` exactly from what the inverse step makes of `y`. Both
compositions, and the equation of R107, are read off from these. -/

section
namespace Sys2Proof.Machine

/-- A second shift by 47 leaves no bit of the first (R103). -/
theorem xsh_involutive : Function.Involutive xsh := fun x => by
  have gone : x >>> Config.shiftAmount >>> Config.shiftAmount = 0#64 := by
    rw [← BitVec.shiftRight_add]
    exact BitVec.ushiftRight_eq_zero (by decide)
  unfold xsh
  rw [BitVec.ushiftRight_xor_distrib, gone, BitVec.xor_zero, BitVec.xor_assoc, BitVec.xor_self, BitVec.xor_zero]

/-- With a correct `MINV` the two multiplications undo each other (R104). -/
theorem mulM_eq_iff {c : Params} (hc : c.MinvCorrect) {x y : Word} : mulM c x = y ↔ x = mulMinv c y := by
  have hc' : c.minv * c.m = 1 := (BitVec.mul_comm _ _).trans hc
  unfold mulM mulMinv
  constructor
  · rintro rfl
    rw [BitVec.mul_assoc, hc]
    exact (BitVec.mul_one x).symm
  · rintro rfl
    rw [BitVec.mul_assoc, hc']
    exact BitVec.mul_one y

/-- `Finalize` is undone step by step, last step first (R105). -/
theorem finalize_eq_iff {c : Params} (hc : c.MinvCorrect) {x y : Word} :
    finalize c x = y ↔ x = xsh (mulMinv c (xsh y)) := by
  unfold finalize
  rw [xsh_involutive.eq_iff, mulM_eq_iff hc, xsh_involutive.eq_iff]

/-- The trailing mix gives `hash` exactly when accumulator and tail word differ by `InvertTrailingMix(hash)` (R100, R106). -/
theorem finalize_absorb_eq_iff {c : Params} (hc : c.MinvCorrect) {g t hash : Word} :
    finalize c (absorb c g t) = hash ↔ g ^^^ t = invertTrailingMix c hash := by
  rw [finalize_eq_iff hc]
  exact mulM_eq_iff hc

/-- Settles O14: the equivalences above, read in both directions. -/
theorem inverseStepsUndoTheForwardSteps : Obligations.InverseStepsUndoTheForwardSteps := by
  unfold Obligations.InverseStepsUndoTheForwardSteps
  refine ⟨xsh_involutive, fun c hc => ⟨fun x => ?_, fun x => ?_, fun x => ?_, fun y => ?_, fun y => rfl⟩⟩
  · exact ((mulM_eq_iff hc).1 rfl).symm
  · exact (mulM_eq_iff hc).2 rfl
  · exact ((finalize_eq_iff hc).1 rfl).symm
  · exact (finalize_eq_iff hc).2 rfl

/-! ### HashCore: the full chunks and the tail (40_hashcore.md R101, R102, R107, R108) -/

/-- The loop over `q` chunks looks at the first `8q` bytes only. -/
theorem absorbChunks_take (c : Params) {q k : Nat} (h : Word) (b : List Byte) (hk : 8 * q ≤ k) :
    absorbChunks c q h (b.take k) = absorbChunks c q h b := by
  induction q generalizing k h b with
  | zero => rfl
  | succ q ih =>
    have first : (b.take k).take 8 = b.take 8 := by
      rw [List.take_take, Nat.min_eq_left (by omega)]
    rw [absorbChunks, absorbChunks, first, List.drop_take]
    exact ih _ _ (by omega)

/-- The hash of the full chunks of a message is the loop of R101 over the whole of it. -/
theorem partialForwardHash_fullChunks (c : Params) (b : List Byte) (total : Word) :
    partialForwardHash c (b.take (8 * (b.length / 8))) total = absorbChunks c (b.length / 8) (hashInit c total) b := by
  have chunks : (b.take (8 * (b.length / 8))).length / 8 = b.length / 8 := by
    rw [List.length_take]
    omega
  unfold partialForwardHash
  rw [chunks, absorbChunks_take c _ b le_rfl]

/-- `ForwardHash` without a tail (R108). -/
theorem forwardHash_of_no_tail (c : Params) {b : List Byte} (h : b.length % 8 = 0) :
    forwardHash c b =
      finalize c (partialForwardHash c (b.take (8 * (b.length / 8))) (BitVec.ofNat 64 b.length)) := by
  rw [partialForwardHash_fullChunks]
  exact if_neg (by omega)

/-- `ForwardHash` with a tail (R108). -/
theorem forwardHash_of_tail (c : Params) {b : List Byte} (h : 0 < b.length % 8) :
    forwardHash c b =
      finalize c (absorb c (partialForwardHash c (b.take (8 * (b.length / 8))) (BitVec.ofNat 64 b.length))
        (packTail (tailBytes b))) := by
  rw [partialForwardHash_fullChunks]
  exact if_pos h

/-- Settles O17: the two branches of `ForwardHash`. -/
theorem forwardHashSplitsAtTheLastFullChunk : Obligations.ForwardHashSplitsAtTheLastFullChunk := by
  unfold Obligations.ForwardHashSplitsAtTheLastFullChunk
  exact fun c _ => ⟨forwardHash_of_no_tail c, forwardHash_of_tail c⟩

/-- A key of eight leading bytes and a seven-byte tail: one full chunk, the tail absorbed, then finalized. -/
theorem forwardHash_key (c : Params) {x tail : List Byte} (hx : x.length = 8) (htail : tail.length = 7) :
    forwardHash c (x ++ tail) = finalize c (absorb c (partialForwardHash c x 15) (packTail tail)) := by
  have len : (x ++ tail).length = 15 := by simp [hx, htail]
  have lead : (x ++ tail).take 8 = x := List.take_left' hx
  have last : tailBytes (x ++ tail) = tail := by
    unfold tailBytes
    rw [len]
    exact List.drop_left' hx
  have split := forwardHash_of_tail c (b := x ++ tail) (by rw [len]; decide)
  rw [last, len] at split
  rw [split, lead]
  rfl

/-- A word is the packing of seven bytes exactly when its byte 7 is 0 and they are its seven low bytes. -/
theorem packTail_eq_iff {tail : List Byte} (htail : tail.length = 7) (w : Word) :
    packTail tail = w ↔ byteAt w 7 = 0 ∧ tail = (bytes8 w).take 7 := by
  have padded : packTail tail = le64 (tail ++ [0]) := by
    unfold packTail
    rw [htail]
    rfl
  have bytes : bytes8 w = (bytes8 w).take 7 ++ [byteAt w 7] := rfl
  rw [padded]
  constructor
  · rintro rfl
    rw [bytes8_le64 (by simp [htail])] at bytes ⊢
    obtain ⟨low, top⟩ := List.append_inj' bytes rfl
    exact ⟨(List.cons.inj top).1.symm, low⟩
  · rintro ⟨top, low⟩
    rw [low, ← top, ← bytes, le64_bytes8]

/-- Settles O16: a tail completes the leading bytes to a preimage exactly when its packing is the candidate word. -/
theorem tailOfAPreimageIsRecoveredDirectly : Obligations.TailOfAPreimageIsRecoveredDirectly := by
  unfold Obligations.TailOfAPreimageIsRecoveredDirectly
  intro c hc hash x tail hx htail
  rw [forwardHash_key c hx htail, finalize_absorb_eq_iff hc, ← packTail_eq_iff htail]
  exact xor_eq_iff_right_eq _ _ _

/-! ### HashCore: the primitive functions at 0, and the chunk mix in its two readings -/

theorem xsh_zero : xsh 0 = 0 := by decide

theorem mulM_zero (c : Params) : mulM c 0 = 0 := BitVec.zero_mul

theorem mulMinv_zero (c : Params) : mulMinv c 0 = 0 := BitVec.zero_mul

theorem finalize_zero (c : Params) : finalize c 0 = 0 := by
  unfold finalize
  rw [xsh_zero, mulM_zero, xsh_zero]

theorem invertTrailingMix_zero (c : Params) : invertTrailingMix c 0 = 0 := by
  unfold invertTrailingMix
  rw [xsh_zero, mulMinv_zero, xsh_zero, mulMinv_zero]

/-- `SEED` is 0 (00_scope.md R6). -/
theorem hashInit_eq_mul (c : Params) (len : Word) : hashInit c len = len * c.m := BitVec.xor_zero

/-- The hash of no bytes is `Finalize(0)`. -/
theorem forwardHash_nil (c : Params) : forwardHash c [] = 0 := by
  have seeded : hashInit c 0 = 0 := (hashInit_eq_mul c 0).trans BitVec.zero_mul
  have empty : forwardHash c [] = finalize c (hashInit c 0) := rfl
  rw [empty, seeded, finalize_zero]

/-- With no chunk to absorb only the seeding is left. -/
theorem partialForwardHash_nil (c : Params) (total : Word) : partialForwardHash c [] total = total * c.m :=
  hashInit_eq_mul c total

theorem chunkMix_of_literal {c : Params} (hc : c.chunkMix = .literal) (k : Word) :
    chunkMix c k = ((k * c.m) ^^^ (k >>> 47)) * c.m := by
  unfold chunkMix
  rw [hc]
  rfl

theorem chunkMix_of_sequential {c : Params} (hc : c.chunkMix = .sequential) (k : Word) :
    chunkMix c k = ((k * c.m) ^^^ ((k * c.m) >>> 47)) * c.m := by
  unfold chunkMix
  rw [hc]
  rfl

/-! ### HashCore: what each command does with the fault latch clear (40_hashcore.md section 4) -/

theorem complete_unlessFaulted {s : State} (h : s.fault = false) (f : State → State) :
    complete (unlessFaulted s f) = .next (f s) :=
  congrArg _ (unlessFaulted_of_clear h f)

theorem requireHash_of_valid {s : State} (h : s.hv = true) (f : State → State) : requireHash s f = f s := if_pos h

theorem requireHash_of_invalid {s : State} (h : s.hv = false) (f : State → State) : requireHash s f = s.raise .eNoinit :=
  if_neg (by simp [h])

section
variable {s : State} (h : s.fault = false)
include h

theorem exec_hinit (len : BitVec 64) :
    exec (.hinit len) s = .next ((s.setHash (hashInit s.cfg len) true).answer .ok 0) :=
  complete_unlessFaulted h _

theorem exec_hchunk (k : BitVec 64) :
    exec (.hchunk k) s = .next (requireHash s fun s => updateHash s (absorb s.cfg s.h (chunkMix s.cfg k))) :=
  complete_unlessFaulted h _

theorem exec_htail (w : BitVec 64) :
    exec (.htail w) s = .next (requireHash s fun s => updateHash s (absorb s.cfg s.h w)) :=
  complete_unlessFaulted h _

theorem exec_hfin : exec .hfin s = .next (requireHash s fun s => updateHash s (finalize s.cfg s.h)) :=
  complete_unlessFaulted h _

theorem exec_hread : exec .hread s = .next (requireHash s fun s => s.answer .ok s.h) :=
  complete_unlessFaulted h _

theorem exec_invtm (hash : BitVec 64) : exec (.invtm hash) s = .next (s.answer .ok (invertTrailingMix s.cfg hash)) :=
  complete_unlessFaulted h _

theorem exec_fhash_of_gt {n : BitVec 32} (hn : s.cfg.msgCap.toNat < n.toNat) :
    exec (.fhash n) s = .next (s.raise .eRange) :=
  (complete_unlessFaulted h _).trans (congrArg _ (if_pos hn))

theorem exec_fhash_of_le {n : BitVec 32} (hn : n.toNat ≤ s.cfg.msgCap.toNat) :
    exec (.fhash n) s = .next (s.answer .ok (forwardHash s.cfg (messageBytes s n.toNat))) :=
  (complete_unlessFaulted h _).trans (congrArg _ (if_neg (Nat.not_lt.2 hn)))

theorem exec_phash_of_precond {n total : BitVec 32} (hn : n.toNat % 8 ≠ 0 ∨ total.toNat < n.toNat) :
    exec (.phash n total) s = .next (s.raise .ePrecond) :=
  (complete_unlessFaulted h _).trans (congrArg _ (if_pos hn))

/-- Within its precondition `PHASH` is the range test and the hash. -/
theorem exec_phash {n total : BitVec 32} (h8 : n.toNat % 8 = 0) (htotal : n.toNat ≤ total.toNat) :
    exec (.phash n total) s = .next (if s.cfg.msgCap.toNat < n.toNat then s.raise .eRange
      else s.answer .ok (partialForwardHash s.cfg (messageBytes s n.toNat) (zext64 total))) :=
  (complete_unlessFaulted h _).trans (congrArg _ (if_neg (by omega)))

theorem exec_phash_of_gt {n total : BitVec 32} (h8 : n.toNat % 8 = 0) (htotal : n.toNat ≤ total.toNat)
    (hn : s.cfg.msgCap.toNat < n.toNat) : exec (.phash n total) s = .next (s.raise .eRange) :=
  (exec_phash h h8 htotal).trans (congrArg _ (if_pos hn))

theorem exec_phash_of_le {n total : BitVec 32} (h8 : n.toNat % 8 = 0) (htotal : n.toNat ≤ total.toNat)
    (hn : n.toNat ≤ s.cfg.msgCap.toNat) :
    exec (.phash n total) s =
      .next (s.answer .ok (partialForwardHash s.cfg (messageBytes s n.toNat) (zext64 total))) :=
  (exec_phash h h8 htotal).trans (congrArg _ (if_neg (Nat.not_lt.2 hn)))

end

/-- What `FHASH` and `PHASH` read: the list of the bytes `MemRead` gives, address by address. -/
theorem eq_messageBytes {s : State} {n : Nat} {b : List Byte} (hlen : b.length = n)
    (hb : ∀ a, a < n → b[a]? = some (memRead1 s a)) : b = messageBytes s n := by
  have hlen' : (messageBytes s n).length = n := by simp [messageBytes, Memory.readBytes]
  refine List.ext_getElem (hlen.trans hlen'.symm) fun a h1 h2 => ?_
  have read := (List.getElem?_eq_getElem h1).symm.trans (hb a (hlen ▸ h1))
  rw [Option.some.inj read]
  simp [messageBytes, Memory.readBytes, memRead1]

/-! ### HashCore: the statements about the commands -/

/-- Settles O19: `HINIT` passes no test but the latch, and seeds with `SEED = 0`. -/
theorem hinitLoadsLengthTimesMultiplier : Obligations.HinitLoadsLengthTimesMultiplier := by
  unfold Obligations.HinitLoadsLengthTimesMultiplier
  intro len s h
  refine ⟨rfl, ?_⟩
  rw [exec_hinit h, hashInit_eq_mul]
  rfl

/-- Settles O20: each command is `requireHash` around its own step, and the chunk mix is that of the parameters. -/
theorem streamingCommandsUpdateTheAccumulator : Obligations.StreamingCommandsUpdateTheAccumulator := by
  unfold Obligations.StreamingCommandsUpdateTheAccumulator
  intro v s h
  refine ⟨⟨rfl, rfl, rfl, rfl⟩, fun hv i hi => ?_, fun hv => ⟨fun hc => ?_, fun hc => ?_, ?_, ?_, ?_⟩⟩
  · simp only [List.mem_cons, List.not_mem_nil, or_false] at hi
    obtain rfl | rfl | rfl | rfl := hi
    · rw [exec_hchunk h, requireHash_of_invalid hv]
      rfl
    · rw [exec_htail h, requireHash_of_invalid hv]
      rfl
    · rw [exec_hfin h, requireHash_of_invalid hv]
      rfl
    · rw [exec_hread h, requireHash_of_invalid hv]
      rfl
  · rw [exec_hchunk h, requireHash_of_valid hv, chunkMix_of_literal hc]
    rfl
  · rw [exec_hchunk h, requireHash_of_valid hv, chunkMix_of_sequential hc]
    rfl
  · rw [exec_htail h, requireHash_of_valid hv]
    rfl
  · rw [exec_hfin h, requireHash_of_valid hv]
    rfl
  · rw [exec_hread h, requireHash_of_valid hv]
    rfl

/-- Settles O21: the range test, then the hash of what the buffer holds; no byte at all hashes to 0. -/
theorem fhashAnswersTheHashOfTheBuffer : Obligations.FhashAnswersTheHashOfTheBuffer := by
  unfold Obligations.FhashAnswersTheHashOfTheBuffer
  intro n s h
  refine ⟨rfl, fun hn => exec_fhash_of_gt h hn, fun hn b hlen hb => ?_, ?_⟩
  · rw [eq_messageBytes hlen hb]
    exact exec_fhash_of_le h hn
  · have empty : messageBytes s (0 : BitVec 32).toNat = [] := rfl
    rw [exec_fhash_of_le h (Nat.zero_le _), empty, forwardHash_nil]
    rfl

/-- Settles O22: the precondition, the range test, then the hash of the chunks; without a chunk only the seeding is left. -/
theorem phashAnswersTheHashOfTheChunks : Obligations.PhashAnswersTheHashOfTheChunks := by
  unfold Obligations.PhashAnswersTheHashOfTheChunks
  intro n total s h
  refine ⟨rfl, fun hn => exec_phash_of_precond h hn, fun h8 htotal hn => exec_phash_of_gt h h8 htotal hn,
    fun h8 htotal hn b hlen hb => ?_, ?_⟩
  · rw [eq_messageBytes hlen hb]
    exact exec_phash_of_le h h8 htotal hn
  · have empty : messageBytes s (0 : BitVec 32).toNat = [] := rfl
    rw [exec_phash_of_le h rfl (Nat.zero_le _) (Nat.zero_le _), empty, partialForwardHash_nil]
    rfl

/-- Settles O23: `INVTM` passes no test but the latch, and every step of the inverse takes 0 to 0. -/
theorem invtmAnswersTheFourStepInverse : Obligations.InvtmAnswersTheFourStepInverse := by
  unfold Obligations.InvtmAnswersTheFourStepInverse
  intro hash s h
  refine ⟨rfl, exec_invtm h hash, ?_⟩
  rw [exec_invtm h, invertTrailingMix_zero]
  rfl

end Sys2Proof.Machine
end

/-! ### The message buffer: words, canonical form and post-increment (10_state.md R24; 20_memory.md R52 to R54, R59)

A command of the buffer is the range test, then the bytes at `MA` and the post-increment. Within the range the post-increment is
addition of numbers, so each statement is read off the law of the one access the command makes. -/

section
namespace Sys2Proof.Machine

/-- Byte `i` of the word read at `a` is the byte at `a + i`. -/
theorem byteAt_memRead8 (s : State) (a : Nat) {i : Nat} (hi : i < 8) : byteAt (memRead8 s a) i = memRead1 s (a + i) := by
  unfold memRead8
  rw [byteAt_le64 _ _ hi]
  simp [Memory.readBytes, memRead1, hi]

theorem memWrite1_wf {s : State} (h : Memory.wf s.msg = true) (a : Nat) (v : Byte) :
    Memory.wf (memWrite1 s a v).msg = true :=
  Memory.write_wf a v h

theorem memWrite8_wf {s : State} (h : Memory.wf s.msg = true) (a : Nat) (v : Word) :
    Memory.wf (memWrite8 s a v).msg = true :=
  Memory.writeBytes_wf a (bytes8 v) h

/-- The post-increment of an access inside the buffer does not wrap: `MSG_CAP` is itself a 32-bit number. -/
theorem toNat_ma_add {s : State} {n : BitVec 32} (hn : s.ma.toNat + n.toNat ≤ s.cfg.msgCap.toNat) :
    (s.ma + n).toNat = s.ma.toNat + n.toNat :=
  BitVec.toNat_add_of_lt (hn.trans_lt s.cfg.msgCap.isLt)

/-! ### The message buffer: what each command does with the fault latch clear (41_msgbuf.md R130 to R134) -/

section
variable {s : State} (h : s.fault = false)
include h

/-- An access that leaves the buffer raises `E_RANGE` and does nothing else, whichever of the four it is (60_exceptions.md R230). -/
theorem complete_requireRange_of_gt {n : Nat} (f : State → State) (hn : s.cfg.msgCap.toNat < s.ma.toNat + n) :
    complete (unlessFaulted s fun s => requireRange s n f) = .next (s.raise .eRange) :=
  (complete_unlessFaulted h _).trans (congrArg _ (if_pos (decide_eq_true hn)))

theorem complete_requireRange_of_le {n : Nat} (f : State → State) (hn : s.ma.toNat + n ≤ s.cfg.msgCap.toNat) :
    complete (unlessFaulted s fun s => requireRange s n f) = .next (f s) :=
  (complete_unlessFaulted h _).trans (congrArg _ (if_neg (by simp [accessOutOfRange, hn])))

theorem exec_mseta_of_ge {addr : BitVec 32} (ha : s.cfg.msgCap.toNat ≤ addr.toNat) :
    exec (.mseta addr) s = .next (s.raise .eRange) :=
  (complete_unlessFaulted h _).trans (congrArg _ (if_pos ha))

theorem exec_mseta_of_lt {addr : BitVec 32} (ha : addr.toNat < s.cfg.msgCap.toNat) :
    exec (.mseta addr) s = .next ((s.setMa addr).answer .ok 0) :=
  (complete_unlessFaulted h _).trans (congrArg _ (if_neg (Nat.not_le.2 ha)))

theorem exec_mwr8_of_gt (b : BitVec 8) (hn : s.cfg.msgCap.toNat < s.ma.toNat + 1) :
    exec (.mwr8 b) s = .next (s.raise .eRange) :=
  complete_requireRange_of_gt h _ hn

theorem exec_mwr8_of_le (b : BitVec 8) (hn : s.ma.toNat + 1 ≤ s.cfg.msgCap.toNat) :
    exec (.mwr8 b) s = .next (((memWrite1 s s.ma.toNat b).advanceMa 1).answer .ok 0) :=
  complete_requireRange_of_le h _ hn

theorem exec_mwr64_of_gt (data : BitVec 64) (hn : s.cfg.msgCap.toNat < s.ma.toNat + 8) :
    exec (.mwr64 data) s = .next (s.raise .eRange) :=
  complete_requireRange_of_gt h _ hn

theorem exec_mwr64_of_le (data : BitVec 64) (hn : s.ma.toNat + 8 ≤ s.cfg.msgCap.toNat) :
    exec (.mwr64 data) s = .next (((memWrite8 s s.ma.toNat data).advanceMa 8).answer .ok 0) :=
  complete_requireRange_of_le h _ hn

theorem exec_mrd8_of_gt (hn : s.cfg.msgCap.toNat < s.ma.toNat + 1) : exec .mrd8 s = .next (s.raise .eRange) :=
  complete_requireRange_of_gt h _ hn

theorem exec_mrd8_of_le (hn : s.ma.toNat + 1 ≤ s.cfg.msgCap.toNat) :
    exec .mrd8 s = .next ((s.advanceMa 1).answer .ok (zext64 (memRead1 s s.ma.toNat))) :=
  complete_requireRange_of_le h _ hn

theorem exec_mrd64_of_gt (hn : s.cfg.msgCap.toNat < s.ma.toNat + 8) : exec .mrd64 s = .next (s.raise .eRange) :=
  complete_requireRange_of_gt h _ hn

theorem exec_mrd64_of_le (hn : s.ma.toNat + 8 ≤ s.cfg.msgCap.toNat) :
    exec .mrd64 s = .next ((s.advanceMa 8).answer .ok (memRead8 s s.ma.toNat)) :=
  complete_requireRange_of_le h _ hn

end

/-! ### The message buffer: the statements about the commands -/

/-- Settles O26: the stored bytes are those of `memWrite8_read`, and below `MSG_CAP` the post-increment cannot wrap. -/
theorem mwr64StoresEightBytes : Obligations.Mwr64StoresEightBytes := by
  unfold Obligations.Mwr64StoresEightBytes
  intro data s h
  refine ⟨rfl, exec_mwr64_of_gt h data, fun hn hwf =>
    ⟨_, exec_mwr64_of_le h data hn, rfl, toNat_ma_add hn, memWrite8_wf hwf _ data, fun i hi => ?_, fun a ha => ?_⟩⟩
  · have inside : s.ma.toNat ≤ s.ma.toNat + i ∧ s.ma.toNat + i < s.ma.toNat + 8 := by omega
    refine (memWrite8_read hwf _ _ data).trans ((if_pos inside).trans ?_)
    rw [Nat.add_sub_cancel_left]
    rfl
  · have outside : ¬ (s.ma.toNat ≤ a ∧ a < s.ma.toNat + 8) := by omega
    exact (memWrite8_read hwf _ _ data).trans (if_neg outside)

/-- Settles O24: `MSETA` passes the latch and its own range test. -/
theorem msetaSetsTheAddressBelowTheCapacity : Obligations.MsetaSetsTheAddressBelowTheCapacity := by
  unfold Obligations.MsetaSetsTheAddressBelowTheCapacity
  exact fun addr s h => ⟨rfl, exec_mseta_of_ge h, exec_mseta_of_lt h⟩

/-- Settles O25: the stored byte is that of `memWrite1_read`, and below `MSG_CAP` the post-increment cannot wrap. -/
theorem mwr8StoresOneByte : Obligations.Mwr8StoresOneByte := by
  unfold Obligations.Mwr8StoresOneByte
  intro b s h
  refine ⟨rfl, exec_mwr8_of_gt h b, fun hn hwf =>
    ⟨_, exec_mwr8_of_le h b hn, rfl, toNat_ma_add hn, memWrite1_wf hwf _ b, ?_, fun a ha => ?_⟩⟩
  · exact (memWrite1_read hwf _ _ b).trans (if_pos rfl)
  · exact (memWrite1_read hwf _ _ b).trans (if_neg ha)

/-- Settles O27: the reads answer what `MemRead` gives at `MA`; the word's bytes are those of `byteAt_memRead8`. The address
after a read is `BitVec` addition by its definition. -/
theorem readsAnswerTheBytesAtTheAddress : Obligations.ReadsAnswerTheBytesAtTheAddress := by
  unfold Obligations.ReadsAnswerTheBytesAtTheAddress
  intro s h
  exact ⟨rfl, rfl, exec_mrd8_of_gt h, exec_mrd8_of_le h, exec_mrd64_of_gt h, fun hn =>
    ⟨memRead8 s s.ma.toNat, exec_mrd64_of_le h hn, fun _ => byteAt_memRead8 s s.ma.toNat⟩⟩

end Sys2Proof.Machine
end

/-! ### The alphabet: membership, and the two commands with the fault latch clear (42_alphabet.md R141, R143, R145) -/

section
namespace Sys2Proof.Machine

/-- R141 in numbers: `inAlpha_bounds` and its converse. -/
theorem inAlpha_iff (b : Byte) : inAlpha b = true ↔ 32 ≤ b.toNat ∧ b.toNat ≤ 126 ∧ b.toNat ≠ 92 := by
  refine ⟨inAlpha_bounds, fun ⟨low, high, excl⟩ => ?_⟩
  have hne : b ≠ Config.alphaExcl := fun e => excl (congrArg BitVec.toNat e)
  unfold inAlpha
  rw [Bool.and_eq_true, Bool.and_eq_true]
  exact ⟨⟨decide_eq_true low, decide_eq_true high⟩, bne_iff_ne.2 hne⟩

section
variable {s : State} (h : s.fault = false)
include h

theorem exec_arst : exec .arst s = .next ((s.setAc 0).answer .ok 0) :=
  complete_unlessFaulted h _

theorem exec_achk (b : BitVec 8) : exec (.achk b) s = .next (s.answer .ok (bitWord (inAlpha b))) :=
  complete_unlessFaulted h _

end

/-- Settles O29: neither command tests anything but the latch, and the answer of `ACHK` is the membership bit, which
`inAlpha_iff` decides from the byte's number. -/
theorem arstRestartsAndAchkTestsMembership : Obligations.ArstRestartsAndAchkTestsMembership := by
  unfold Obligations.ArstRestartsAndAchkTestsMembership
  refine fun b s h => ⟨rfl, rfl, exec_arst h, fun low high excl => ?_, fun outside => ?_⟩
  · have member : inAlpha b = true := (inAlpha_iff b).2 ⟨low, high, excl⟩
    rw [exec_achk h, member]
    rfl
  · have nonmember : inAlpha b = false := by
      rw [← Bool.not_eq_true, inAlpha_iff]
      omega
    rw [exec_achk h, nonmember]
    rfl

end Sys2Proof.Machine
end

/-! ### The target index: the signature, byte by byte (43_targetindex.md R150 to R152) -/

section
namespace Sys2Proof.Machine

theorem byteAt_sig (w : Word) (j : Nat) : byteAt (sig w) j = byteAt w j &&& byteAt Config.bucketMask j :=
  BitVec.extractLsb'_and

/-- In bytes 0 to 6 the mask keeps the top bit only (R150). -/
theorem byteAt_bucketMask_low : ∀ j, j < 7 → byteAt Config.bucketMask j = 0x80 := by decide

/-- Of byte 7 the mask keeps every bit (R150). -/
theorem byteAt_bucketMask_top : byteAt Config.bucketMask 7 = 0xFF := by decide

theorem byte_and_topBit_eq_zero_iff : ∀ b : Byte, b &&& 0x80 = 0 ↔ b.toNat < 128 := by decide

/-- A signature is 0 exactly when byte 7 is 0 and every other byte has its top bit clear. -/
theorem sig_eq_zero_iff (w : Word) : sig w = 0 ↔ byteAt w 7 = 0 ∧ ∀ j, j < 7 → (byteAt w j).toNat < 128 := by
  have top : byteAt (sig w) 7 = byteAt w 7 := by
    rw [byteAt_sig, byteAt_bucketMask_top]
    exact BitVec.and_allOnes
  have low : ∀ j, j < 7 → (byteAt (sig w) j = 0 ↔ (byteAt w j).toNat < 128) := fun j hj => by
    rw [byteAt_sig, byteAt_bucketMask_low j hj, byte_and_topBit_eq_zero_iff]
  have zero : ∀ j, byteAt 0 j = 0 := fun j => BitVec.extractLsb'_zero
  constructor
  · intro h
    exact ⟨by rw [← top, h, zero], fun j hj => (low j hj).1 (by rw [h, zero])⟩
  · rintro ⟨h7, hlow⟩
    refine word_ext fun j hj => ?_
    rw [zero]
    obtain hj7 | rfl : j < 7 ∨ j = 7 := by omega
    · exact (low j hj7).2 (hlow j hj7)
    · rw [top, h7]

/-- Masking distributes over the exclusive or (R152). -/
theorem sig_xor (v w : Word) : sig (v ^^^ w) = sig v ^^^ sig w := by
  unfold sig
  ext i hi
  simp only [BitVec.getElem_and, BitVec.getElem_xor, Bool.and_xor_distrib_right]

/-- Two words agree in signature exactly when their difference has signature 0 (R152). -/
theorem sig_eq_sig_iff (v w : Word) : sig v = sig w ↔ sig (v ^^^ w) = 0 := by
  rw [sig_xor, xor_eq_zero_iff]

/-- Every alphabet byte is below 128, so a valid tail word has signature 0 (R152). -/
theorem sig_of_validTail {c : Word} (h : validTail c = true) : sig c = 0 := by
  obtain ⟨top, low⟩ := (validTail_iff c).1 h
  refine (sig_eq_zero_iff c).2 ⟨top, fun j hj => ?_⟩
  obtain ⟨-, le, -⟩ := inAlpha_bounds (low j hj)
  omega

theorem sig_eq_of_validTail_xor {p trim : Word} (h : validTail (p ^^^ trim) = true) : sig p = sig trim :=
  (sig_eq_sig_iff p trim).2 (sig_of_validTail h)

/-- Seven alphabet bytes pack to a valid tail word (42_alphabet.md R142). -/
theorem validTail_packTail {tail : List Byte} (hlen : tail.length = 7) (halpha : ∀ b ∈ tail, inAlpha b = true) :
    validTail (packTail tail) = true := by
  obtain ⟨top, low⟩ := (packTail_eq_iff hlen _).1 rfl
  unfold validTail
  rw [← low, top, List.all_eq_true.2 halpha]
  rfl

/-- A key's leading part and the trim of its hash differ by the packed tail (40_hashcore.md R106). -/
theorem leadHash_xor_trim {c : Params} (hc : c.MinvCorrect) {x tail : List Byte} (hx : x.length = 8)
    (htail : tail.length = 7) :
    partialForwardHash c x 15 ^^^ invertTrailingMix c (forwardHash c (x ++ tail)) = packTail tail := by
  rw [forwardHash_key c hx htail, ← (finalize_absorb_eq_iff hc).1 rfl, xor_cancel_left]

/-- Settles O35: the signature of the difference is what the filter looks at, and of a key the difference is its packed tail.
The pair (0, 0) passes the filter, but 0 is no valid tail word. -/
theorem signatureFilterPrunesNoValidCandidate : Obligations.SignatureFilterPrunesNoValidCandidate := by
  unfold Obligations.SignatureFilterPrunesNoValidCandidate
  refine ⟨fun _ => sig_of_validTail, fun _ _ => sig_eq_of_validTail_xor, fun c hc x tail hx htail halpha => ?_,
    fun p trim => (sig_eq_sig_iff p trim).trans (sig_eq_zero_iff _), 0, 0, rfl, by decide⟩
  refine sig_eq_of_validTail_xor ?_
  rw [leadHash_xor_trim hc hx htail]
  exact validTail_packTail htail halpha

end Sys2Proof.Machine
end

/-! ### The target index: the store, and what each command does with the fault latch clear (10_state.md R27;
43_targetindex.md R153 to R157) -/

section
namespace Sys2Proof.Machine

/-- R27: the hashes of the deduplication set are those of the slots below `TN`. -/
theorem State.knows_iff (s : State) (hash : Word) :
    s.knows hash = true ↔ ∃ i sl, i < s.tn.toNat ∧ s.tgt[i]? = some sl ∧ sl.hash = hash := by
  simp only [State.knows, State.allocated, List.any_eq_true, beq_iff_eq, List.mem_iff_getElem?, List.getElem?_take,
    Option.ite_none_right_eq_some]
  constructor
  · rintro ⟨sl, ⟨i, hi, hsl⟩, hash_eq⟩
    exact ⟨i, sl, hi, hsl, hash_eq⟩
  · rintro ⟨i, sl, hi, hsl, hash_eq⟩
    exact ⟨sl, ⟨i, hi, hsl⟩, hash_eq⟩

theorem State.knows_eq_false {s : State} {hash : Word}
    (h : ∀ i sl, i < s.tn.toNat → s.tgt[i]? = some sl → sl.hash ≠ hash) : s.knows hash = false := by
  rw [← Bool.not_eq_true, State.knows_iff]
  rintro ⟨i, sl, hi, hsl, hash_eq⟩
  exact h i sl hi hsl hash_eq

/-- Below the capacity an allocation appends one pending slot to the allocated ones. -/
theorem State.allocate_allocated {s : State} (hlen : s.tgt.length = s.cfg.tgtCap.toNat)
    (htn : s.tn.toNat < s.cfg.tgtCap.toNat) (hash : Word) :
    (s.allocate hash).allocated = s.allocated ++ [⟨hash, invertTrailingMix s.cfg hash, true⟩] := by
  have next : (s.tn + 1).toNat = s.tn.toNat + 1 :=
    BitVec.toNat_add_of_lt (Nat.lt_of_le_of_lt htn s.cfg.tgtCap.isLt)
  unfold State.allocated
  rw [State.allocate_tn, State.allocate_tgt, next, List.take_add_one, List.take_set_of_le le_rfl,
    List.getElem?_set_self (hlen ▸ htn)]
  rfl

section
variable {s : State} (h : s.fault = false)
include h

/-- While a search is in progress a command that changes the index raises `E_BUSY` and does nothing else (60_exceptions.md
R225). -/
theorem complete_requireIdle_of_running (hrun : s.run = true) (f : State → State) :
    complete (unlessFaulted s fun s => requireIdle s f) = .next (s.raise .eBusy) :=
  (complete_unlessFaulted h _).trans (congrArg _ (if_pos hrun))

theorem complete_requireIdle_of_idle (hrun : s.run = false) (f : State → State) :
    complete (unlessFaulted s fun s => requireIdle s f) = .next (f s) :=
  (complete_unlessFaulted h _).trans (congrArg _ (if_neg (by simp [hrun])))

theorem exec_tins_of_running (hrun : s.run = true) (hash : BitVec 64) : exec (.tins hash) s = .next (s.raise .eBusy) :=
  complete_requireIdle_of_running h hrun _

theorem exec_tins_of_known (hrun : s.run = false) {hash : BitVec 64} (known : s.knows hash = true) :
    exec (.tins hash) s = .next (s.answer .ok 0) :=
  (complete_requireIdle_of_idle h hrun _).trans (congrArg _ (if_pos known))

/-- A new hash passes the duplicate test and meets the capacity test (R153). -/
theorem exec_tins_of_new (hrun : s.run = false) {hash : BitVec 64} (new : s.knows hash = false) :
    exec (.tins hash) s = .next (if s.tn = s.cfg.tgtCap then s.raise .eFull else (s.allocate hash).answer .ok 1) :=
  (complete_requireIdle_of_idle h hrun _).trans (congrArg _ (if_neg (by simp [new])))

theorem exec_tins_of_full (hrun : s.run = false) {hash : BitVec 64} (new : s.knows hash = false)
    (full : s.tn = s.cfg.tgtCap) : exec (.tins hash) s = .next (s.raise .eFull) :=
  (exec_tins_of_new h hrun new).trans (congrArg _ (if_pos full))

theorem exec_tins_of_room (hrun : s.run = false) {hash : BitVec 64} (new : s.knows hash = false)
    (room : s.tn ≠ s.cfg.tgtCap) : exec (.tins hash) s = .next ((s.allocate hash).answer .ok 1) :=
  (exec_tins_of_new h hrun new).trans (congrArg _ (if_neg room))

theorem exec_tsize : exec .tsize s = .next (s.answer .ok s.pendingWord) :=
  complete_unlessFaulted h _

theorem exec_tprobe (p : BitVec 64) :
    exec (.tprobe p) s = .next (s.answer .ok (BitVec.ofNat 64 (s.bucket (sig p)).length)) :=
  complete_unlessFaulted h _

theorem exec_tclr_of_running (hrun : s.run = true) : exec .tclr s = .next (s.raise .eBusy) :=
  complete_requireIdle_of_running h hrun _

theorem exec_tclr_of_idle (hrun : s.run = false) :
    exec .tclr s = .next ((((s.setTargets s.tgt 0).setResults s.res 0).setSearchFlags s.run false false).answer .ok 0) :=
  complete_requireIdle_of_idle h hrun _

end

/-- `Pending()` counts the slots that the filter of R151 keeps. -/
theorem State.pendingCount_eq_length (s : State) :
    s.pendingCount = ((s.tgt.take s.tn.toNat).filter fun t => t.pend).length :=
  List.countP_eq_length_filter

/-! ### The target index: the statements about the commands -/

/-- Settles O33: a known hash changes nothing, however often it is inserted; a new one is known after its allocation, so that only
the first insertion counts. -/
theorem insertingTwiceCountsOnce : Obligations.InsertingTwiceCountsOnce := by
  unfold Obligations.InsertingTwiceCountsOnce
  intro hash s t u inv hrun hfault room first second
  cases known : s.knows hash with
  | true =>
    rw [exec_tins_of_known hfault hrun known] at first
    cases first
    rw [exec_tins_of_known (s := s.answer .ok 0) hfault hrun known] at second
    cases second
    rfl
  | false =>
    have notFull : s.tn ≠ s.cfg.tgtCap := fun full => room.ne (congrArg BitVec.toNat full)
    have slots := State.allocate_allocated inv.tgt_length room hash
    have nowKnown : (s.allocate hash).knows hash = true := by simp [State.knows, slots]
    rw [exec_tins_of_room hfault hrun known notFull] at first
    cases first
    rw [exec_tins_of_known (s := (s.allocate hash).answer .ok 1) hfault hrun nowKnown] at second
    cases second
    simp [State.pendingCount, slots]

/-- Settles O32: the three tests of `TINS` in their order, the duplicate test read off the slots by `knows_iff`. -/
theorem tinsInsertsANewHashOnce : Obligations.TinsInsertsANewHashOnce := by
  unfold Obligations.TinsInsertsANewHashOnce
  intro hash s h
  exact ⟨rfl, fun hrun => exec_tins_of_running h hrun hash,
    fun hrun held => exec_tins_of_known h hrun ((s.knows_iff hash).2 held),
    fun hrun new full => exec_tins_of_full h hrun (State.knows_eq_false new) full,
    fun hrun new room => exec_tins_of_room h hrun (State.knows_eq_false new) room⟩

/-- Settles O34: the two queries answer the lengths of `Pending()` and of the bucket; only `TCLR` tests for a search. -/
theorem indexIsCountedProbedAndCleared : Obligations.IndexIsCountedProbedAndCleared := by
  unfold Obligations.IndexIsCountedProbedAndCleared
  intro p s h
  refine ⟨⟨rfl, rfl, rfl⟩, ?_, exec_tprobe h p, exec_tclr_of_running h, exec_tclr_of_idle h⟩
  rw [exec_tsize h, State.pendingWord, State.pendingCount_eq_length]
  rfl

end Sys2Proof.Machine
end

/-! ### The search: how it advances (44_searcher.md R174 to R177, R185)

Seen from the state a search command finds, each search step resolves pending slots and adds a record for each of them. The
relation `SearchAdvances` says so; it is reflexive and transitive, and the match and the end of a step keep within it, so that
every `SRUN` does. -/

section
namespace Sys2Proof.Machine

/-- The next odometer after a legal one is legal (R173): a digit that is counted up was not 93, one that is reset is 0. -/
theorem Odometer.legal_of_next? {o o' : Odometer} (h : o.legal) (hnext : o.next? = some o') : o'.legal := by
  have counted : ∀ d : BitVec 7, d.toNat ≤ 93 → d ≠ 93 → (d + 1).toNat ≤ 93 := by decide
  have restarted : (0 : BitVec 7).toNat ≤ 93 := by decide
  simp only [Odometer.legal, Odometer.digits, List.forall_mem_cons, List.not_mem_nil, false_implies, implies_true,
    and_true] at h ⊢
  unfold Odometer.next? at hnext
  split_ifs at hnext <;> cases hnext <;> simp only [*, ne_eq, not_false_eq_true, and_self]

/-- The eight bytes of a legal odometer are alphabet bytes (R171). -/
theorem Odometer.inAlpha_bytes {o : Odometer} (h : o.legal) {b : Byte} (hb : b ∈ o.bytes) : inAlpha b = true := by
  obtain ⟨d, hd, rfl⟩ := List.mem_map.1 hb
  exact inAlpha_alpha d (h d hd)

/-- What a search does to the slot at one index: nothing, or it resolves it. -/
inductive SlotAdvances : Option Slot → Option Slot → Prop where
  | same (o : Option Slot) : SlotAdvances o o
  | resolved {sl : Slot} (pending : sl.pend = true) : SlotAdvances (some sl) (some { sl with pend := false })

namespace SlotAdvances

theorem of_resolved {sl : Slot} {o : Option Slot} (h : SlotAdvances (some { sl with pend := false }) o) :
    o = some { sl with pend := false } := by
  cases h with
  | same => rfl
  | resolved pending => cases pending

theorem eq_of_pending {sl : Slot} {o : Option Slot} (h : SlotAdvances o (some sl)) (pending : sl.pend = true) :
    o = some sl := by
  cases h with
  | same => rfl
  | resolved => cases pending

theorem trans {o p q : Option Slot} (h : SlotAdvances o p) (h' : SlotAdvances p q) : SlotAdvances o q := by
  cases h with
  | same => exact h'
  | resolved pending =>
    rw [h'.of_resolved]
    exact .resolved pending

end SlotAdvances

/-- A record that is a preimage found between `s` and `u` (R185): a key of fifteen alphabet bytes and a zero byte that hashes to
the hash of a slot that was pending in `s` and is resolved in `u`. -/
structure FoundBetween (s u : State) (r : Record) : Prop where
  hash : forwardHash u.cfg (r.key.take 15) = r.hash
  alpha : ∀ b ∈ r.key.take 15, inAlpha b = true
  length : r.key.length = 16
  last : r.key[15]? = some 0
  slot : ∃ (j : Nat) (sl : Slot), j < s.tn.toNat ∧ s.tgt[j]? = some sl ∧ sl.hash = r.hash ∧ sl.pend = true ∧
    u.tgt[j]? = some { sl with pend := false }

/-- What a search leads to from `s`: slots are only resolved, and every new record is a preimage it found. -/
structure SearchAdvances (s u : State) : Prop where
  cfg : u.cfg = s.cfg
  tn : u.tn = s.tn
  slots : ∀ j : Nat, SlotAdvances s.tgt[j]? u.tgt[j]?
  records : ∀ r ∈ u.records, r ∈ s.records ∨ FoundBetween s u r

namespace SearchAdvances

/-- Parameters, target store and result FIFO are all that the relation looks at. -/
theorem of_same {s u : State} (cfg : u.cfg = s.cfg) (tgt : u.tgt = s.tgt) (tn : u.tn = s.tn) (records : u.records = s.records) :
    SearchAdvances s u where
  cfg := cfg
  tn := tn
  slots _ := tgt ▸ .same _
  records _ hr := .inl (records ▸ hr)

theorem refl (s : State) : SearchAdvances s s := .of_same rfl rfl rfl rfl

/-- A slot resolved once stays as it is. -/
theorem foundBetween_right {s u v : State} {r : Record} (h : SearchAdvances u v) (found : FoundBetween s u r) :
    FoundBetween s v r := by
  obtain ⟨j, sl, hj, hsl, hash, pending, resolved⟩ := found.slot
  exact { found with
    hash := h.cfg ▸ found.hash
    slot := ⟨j, sl, hj, hsl, hash, pending, (resolved ▸ h.slots j).of_resolved⟩ }

/-- A slot that is still pending is as it was. -/
theorem foundBetween_left {s u v : State} {r : Record} (h : SearchAdvances s u) (found : FoundBetween u v r) :
    FoundBetween s v r := by
  obtain ⟨j, sl, hj, hsl, hash, pending, resolved⟩ := found.slot
  exact { found with slot := ⟨j, sl, h.tn ▸ hj, (hsl ▸ h.slots j).eq_of_pending pending, hash, pending, resolved⟩ }

theorem trans {s u v : State} (h : SearchAdvances s u) (h' : SearchAdvances u v) : SearchAdvances s v where
  cfg := h'.cfg.trans h.cfg
  tn := h'.tn.trans h.tn
  slots j := (h.slots j).trans (h'.slots j)
  records r hr := by
    obtain hu | found := h'.records r hr
    · exact (h.records r hu).imp_right h'.foundBetween_right
    · exact .inr (h.foundBetween_left found)

end SearchAdvances

/-! ### The match: its slots and its records (R174) -/

/-- The key of a hit: eight bytes of a legal odometer and the seven low bytes of a valid tail word. -/
theorem inAlpha_candidateKey {o : Odometer} (legal : o.legal) {p : Word} {t : Slot} (valid : validTail (candidate p t) = true)
    {b : Byte} (hb : b ∈ candidateKey o.bytes p t) : inAlpha b = true := by
  obtain hb | hb := List.mem_append.1 hb
  · exact Odometer.inAlpha_bytes legal hb
  · exact List.all_eq_true.1 (Bool.and_eq_true_iff.1 valid).2 b hb

/-- The first fifteen bytes of the record of a hit are its key. -/
theorem recordOf_key_take (o : Odometer) (p : Word) (t : Slot) :
    (recordOf t (candidateKey o.bytes p t)).key.take 15 = candidateKey o.bytes p t := rfl

theorem matchSlots_slots_advance (c : Params) (x : List Byte) (p : Word) (ts : List Slot) (j : Nat) :
    SlotAdvances ts[j]? (matchSlots c x p ts).slots[j]? := by
  induction ts generalizing j with
  | nil => exact .same _
  | cons t ts ih =>
    unfold matchSlots
    obtain ⟨h, -⟩ | ⟨h, bucket, -⟩ | ⟨h, -⟩ := judgeSlot_cases c x p t <;> rw [h]
    · cases j with
      | zero => exact .same _
      | succ j => exact ih j
    · cases j with
      | zero => exact .resolved (Bool.and_eq_true_iff.1 bucket).1
      | succ j => exact ih j
    · exact .same _

/-- Each record of the match is that of a slot it resolved, with a valid tail and a key that hashes to the slot's hash. -/
theorem exists_slot_of_mem_matchSlots_records {c : Params} {x : List Byte} {p : Word} {ts : List Slot} {r : Record}
    (hr : r ∈ (matchSlots c x p ts).records) :
    ∃ (j : Nat) (t : Slot), ts[j]? = some t ∧ t.pend = true ∧ validTail (candidate p t) = true ∧
      forwardHash c (candidateKey x p t) = t.hash ∧ r = recordOf t (candidateKey x p t) ∧
      (matchSlots c x p ts).slots[j]? = some { t with pend := false } := by
  induction ts with
  | nil => cases hr
  | cons t ts ih =>
    unfold matchSlots at hr ⊢
    obtain ⟨h, -⟩ | ⟨h, bucket, valid, hash⟩ | ⟨h, -⟩ := judgeSlot_cases c x p t <;> rw [h] at hr ⊢
    · obtain ⟨j, found⟩ := ih hr
      exact ⟨j + 1, found⟩
    · obtain rfl | hr := List.mem_cons.1 hr
      · exact ⟨0, t, rfl, (Bool.and_eq_true_iff.1 bucket).1, valid, hash, rfl, rfl⟩
      · obtain ⟨j, found⟩ := ih hr
        exact ⟨j + 1, found⟩
    · cases hr

/-! ### The result FIFO: what appending and popping leave in it (R30, R174, R202) -/

theorem State.mem_records_iff {s : State} {r : Record} : r ∈ s.records ↔ ∃ i, i < s.rn.toNat ∧ s.res[i]? = some r := by
  simp only [State.records, List.mem_iff_getElem?, List.getElem?_take, Option.ite_none_right_eq_some]

/-- Whatever `RN` and the size of the store are: an append past the end is dropped, and a counter that wraps shows less. -/
theorem State.mem_records_of_mem_appendRecord {s : State} {r r' : Record} (h : r' ∈ (s.appendRecord r).records) :
    r' ∈ s.records ∨ r' = r := by
  rw [State.mem_records_iff] at h
  obtain ⟨i, hi, hr'⟩ := h
  rw [State.appendRecord_rn, BitVec.toNat_add] at hi
  rw [State.appendRecord_res, List.getElem?_set] at hr'
  have le : i ≤ s.rn.toNat := Nat.le_of_lt_succ (Nat.lt_of_lt_of_le hi (Nat.mod_le _ _))
  split_ifs at hr' with last room
  · exact .inr (Option.some.inj hr').symm
  · exact .inl (State.mem_records_iff.2 ⟨i, Nat.lt_of_le_of_ne le (Ne.symm last), hr'⟩)

theorem State.mem_records_of_mem_appendRecords {rs : List Record} {s : State} {r : Record}
    (h : r ∈ (rs.foldl State.appendRecord s).records) : r ∈ s.records ∨ r ∈ rs := by
  induction rs generalizing s with
  | nil => exact .inl h
  | cons r' rs ih =>
    obtain h | h := ih h
    · exact (State.mem_records_of_mem_appendRecord h).imp_right fun e => List.mem_cons.2 (.inl e)
    · exact .inr (List.mem_cons_of_mem _ h)

/-- `RPOP` drops the head of what the FIFO holds and keeps the rest in order (R202). -/
theorem take_shiftRecords {records : List Record} {n : Nat} (h : n ≤ records.length) :
    (shiftRecords records n).take (n - 1) = (records.take n).drop 1 := by
  rw [List.drop_take]
  exact List.take_left' (by rw [List.length_take, List.length_drop]; omega)

/-! ### The search step and the loop of `SRUN` (R177, R180) -/

theorem applyMatch_tgt (s : State) (m : MatchResult) : (s.applyMatch m).tgt = m.slots ++ s.tgt.drop s.tn.toNat := by
  rw [applyMatch_eq]
  rfl

/-- The slots the match resolves stand at the indices they were allocated at. -/
theorem applyMatch_matchStep_getElem? {s : State} {j : Nat} {t t' : Slot} (ht : s.allocated[j]? = some t)
    (ht' : s.matchStep.slots[j]? = some t') :
    j < s.tn.toNat ∧ s.tgt[j]? = some t ∧ (s.applyMatch s.matchStep).tgt[j]? = some t' := by
  rw [State.allocated, List.getElem?_take, Option.ite_none_right_eq_some] at ht
  rw [applyMatch_tgt, List.getElem?_append_left (List.getElem?_eq_some_iff.1 ht').1]
  exact ⟨ht.1, ht.2, ht'⟩

theorem searchAdvances_applyMatch {s : State} (legal : s.dig.legal) : SearchAdvances s (s.applyMatch s.matchStep) where
  cfg := (sameChannel_applyMatch s _).cfg
  tn := by rw [applyMatch_eq]; rfl
  slots j := by
    have same : s.matchStep.slots.length = s.allocated.length := matchSlots_slots_length _ _ _ _
    have before : s.tgt[j]? = (s.allocated ++ s.tgt.drop s.tn.toNat)[j]? := by rw [State.allocated, List.take_append_drop]
    rw [before, applyMatch_tgt, List.getElem?_append, List.getElem?_append, same]
    split
    · exact matchSlots_slots_advance _ _ _ _ j
    · exact .same _
  records r hr := by
    refine (State.mem_records_of_mem_appendRecords hr).imp_right fun hr => ?_
    obtain ⟨j, t, ht, pending, valid, hash, rfl, ht'⟩ := exists_slot_of_mem_matchSlots_records hr
    obtain ⟨hj, before, after⟩ := applyMatch_matchStep_getElem? ht ht'
    exact {
      hash := by rw [recordOf_key_take, (sameChannel_applyMatch s _).cfg, hash]; rfl
      alpha := fun b hb => inAlpha_candidateKey legal valid (recordOf_key_take .. ▸ hb)
      length := rfl
      last := rfl
      slot := ⟨j, t, hj, before, rfl, pending, after⟩ }

/-- Step 5 counts, and sets flags or moves the odometer to the next one, a legal one. -/
theorem searchAdvances_endStep {s : State} (legal : s.dig.legal) : SearchAdvances s s.endStep ∧ s.endStep.dig.legal := by
  obtain ⟨-, e⟩ | ⟨-, -, e⟩ | ⟨d, -, next, e⟩ := endStep_cases s <;> rw [e]
  · exact ⟨.of_same rfl rfl rfl rfl, legal⟩
  · exact ⟨.of_same rfl rfl rfl rfl, legal⟩
  · exact ⟨.of_same rfl rfl rfl rfl, Odometer.legal_of_next? legal next⟩

/-- The loop of `SRUN`, from whatever state `u` the steps done so far have led to. -/
theorem searchAdvances_runSteps {s u : State} (h : SearchAdvances s u) (legal : u.dig.legal) (n : Nat) (c : Word) :
    SearchAdvances s (runSteps n c u) := by
  have answered {v : State} (hv : SearchAdvances s v) (st : Status) (d : Word) : SearchAdvances s (v.answer st d) :=
    hv.trans (.of_same rfl rfl rfl rfl)
  induction n generalizing u c with
  | zero => exact answered h _ _
  | succ n ih =>
    have matched := h.trans (searchAdvances_applyMatch legal)
    have legal' : (u.applyMatch u.matchStep).dig.legal := by
      rw [applyMatch_eq]
      exact legal
    cases hrun : u.run with
    | false =>
      rw [runSteps_ended hrun]
      exact answered h _ _
    | true =>
      rw [runSteps_succ hrun]
      obtain ⟨-, e⟩ | ⟨-, e⟩ := searchStep_cases u <;> rw [e]
      · have latched : SearchAdvances s (u.applyMatch u.matchStep).latchFault := matched.trans (.of_same rfl rfl rfl rfl)
        exact answered latched _ _
      · obtain ⟨ended, legal''⟩ := searchAdvances_endStep legal'
        exact ih (matched.trans ended) legal'' _

/-! ### The tests before a command: what every raised error keeps and the command keeps, the tested command keeps -/

section
variable {P : State → Prop} {s : State} {f : State → State} (raised : ∀ e, P (s.raise e))
include raised

theorem holds_of_gate {raises passes : Prop} {e : Status} {t u : State}
    (gate : (raises ∧ t = s.raise e) ∨ (passes ∧ t = u)) (h : P u) : P t := by
  obtain ⟨-, rfl⟩ | ⟨-, rfl⟩ := gate
  · exact raised e
  · exact h

theorem holds_unlessFaulted (h : P (f s)) : P (unlessFaulted s f) := holds_of_gate raised (unlessFaulted_eq s f) h

theorem holds_requireHash (h : P (f s)) : P (requireHash s f) := holds_of_gate raised (requireHash_eq s f) h

theorem holds_requireRange {n : Nat} (h : P (f s)) : P (requireRange s n f) := holds_of_gate raised (requireRange_eq s n f) h

theorem holds_requireIdle (h : P (f s)) : P (requireIdle s f) := holds_of_gate raised (requireIdle_eq s f) h

theorem holds_requireRun (h : P (f s)) : P (requireRun s f) := holds_of_gate raised (requireRun_eq s f) h

theorem holds_ite_raise {p : Prop} [Decidable p] {e : Status} {t : State} (h : P t) : P (if p then s.raise e else t) := by
  split
  · exact raised e
  · exact h

end

theorem exec_srun_searchAdvances {n : BitVec 64} {s t : State} (legal : s.dig.legal) (h : exec (.srun n) s = .next t) :
    SearchAdvances s t := by
  obtain rfl := (complete_eq_next _ t).1 h
  have raised (e : Status) : SearchAdvances s (s.raise e) := .of_same rfl rfl rfl rfl
  exact holds_unlessFaulted raised (holds_requireRun raised (searchAdvances_runSteps (.refl s) legal _ _))

/-! ### No other command adds a record -/

/-- Every record of `t` was in the FIFO of `s`. -/
def AddsNoRecord (s t : State) : Prop := t.records ⊆ s.records

namespace AddsNoRecord

variable {s t : State}

/-- A command that leaves the FIFO alone. -/
theorem of_same (h : t.records = s.records) : AddsNoRecord s t := fun _ hr => h ▸ hr

/-- A command that empties the FIFO. -/
theorem of_empty (h : t.rn = 0) : AddsNoRecord s t := by
  simp [AddsNoRecord, State.records, h]

end AddsNoRecord

theorem addsNoRecord_pop {s : State} (fits : s.rn.toNat ≤ s.res.length) (nonempty : s.rn ≠ 0) :
    AddsNoRecord s ((s.setResults (shiftRecords s.res s.rn.toNat) (s.rn - 1)).answer .ok 0) := by
  have popped : (s.rn - 1).toNat = s.rn.toNat - 1 := by
    bv_omega
  have left : ((s.setResults (shiftRecords s.res s.rn.toNat) (s.rn - 1)).answer .ok 0).records = s.records.drop 1 := by
    show (shiftRecords s.res s.rn.toNat).take (s.rn - 1).toNat = _
    rw [popped]
    exact take_shiftRecords fits
  unfold AddsNoRecord
  rw [left]
  exact List.drop_subset _ _

/-- The cases name the tests a command makes, in their order, and what it does to the FIFO after them. -/
theorem exec_addsNoRecord {i : Instr} {s t : State} (fits : s.rn.toNat ≤ s.res.length) (hi : ∀ n, i ≠ .srun n)
    (h : exec i s = .next t) : AddsNoRecord s t := by
  have same {u : State} (hu : u.records = s.records) : AddsNoRecord s u := .of_same hu
  have raised (e : Status) : AddsNoRecord s (s.raise e) := same rfl
  cases i <;> obtain rfl := (complete_eq_next _ t).1 h
  case srun n => exact absurd rfl (hi n)
  case nop => exact same rfl
  case reset => exact .of_empty rfl
  case hinit | invtm | arst | achk | tsize | tprobe => exact holds_unlessFaulted raised (same rfl)
  case hchunk | htail | hfin | hread => exact holds_unlessFaulted raised (holds_requireHash raised (same rfl))
  case fhash | mseta | anext => exact holds_unlessFaulted raised (holds_ite_raise raised (same rfl))
  case phash | rrd => exact holds_unlessFaulted raised (holds_ite_raise raised (holds_ite_raise raised (same rfl)))
  case mwr8 | mwr64 | mrd8 | mrd64 => exact holds_unlessFaulted raised (holds_requireRange raised (same rfl))
  case tins =>
    refine holds_unlessFaulted raised (holds_requireIdle raised ?_)
    split
    · exact same rfl
    · exact holds_ite_raise raised (same rfl)
  case tclr | sstart => exact holds_unlessFaulted raised (holds_requireIdle raised (.of_empty rfl))
  case sstop => exact holds_unlessFaulted raised (holds_requireRun raised (same rfl))
  case rpop =>
    refine holds_unlessFaulted raised ?_
    split
    · exact raised _
    · next nonempty => exact addsNoRecord_pop fits nonempty
  case crd idx =>
    split
    · exact same rfl
    · exact raised _

/-- Settles O44: only `SRUN` adds records, and what it adds its search steps have found. -/
theorem everyNewRecordIsAPreimage : Obligations.EveryNewRecordIsAPreimage := by
  unfold Obligations.EveryNewRecordIsAPreimage
  intro i s t inv h r hr
  by_cases hi : ∃ n, i = .srun n
  · obtain ⟨n, rfl⟩ := hi
    refine ((exec_srun_searchAdvances inv.digits_le h).records r hr).imp_right fun found => ?_
    exact ⟨⟨n, rfl⟩, found.hash, found.alpha, found.length, found.last, found.slot⟩
  · have fits : s.rn.toNat ≤ s.res.length := inv.res_length ▸ inv.rn_le
    exact .inl (exec_addsNoRecord fits (fun n e => hi ⟨n, e⟩) h hr)

end Sys2Proof.Machine
end

/-! ### The search: its start and its abandonment with the fault latch clear (44_searcher.md R178, R181) -/

section
namespace Sys2Proof.Machine

section
variable {s : State} (h : s.fault = false)
include h

/-- With no search in progress `SRUN` and `SSTOP` raise `E_NOTRUN` and do nothing else (60_exceptions.md R226). -/
theorem complete_requireRun_of_idle (hrun : s.run = false) (f : State → State) :
    complete (unlessFaulted s fun s => requireRun s f) = .next (s.raise .eNotrun) :=
  (complete_unlessFaulted h _).trans (congrArg _ (if_neg (by simp [hrun])))

theorem complete_requireRun_of_running (hrun : s.run = true) (f : State → State) :
    complete (unlessFaulted s fun s => requireRun s f) = .next (f s) :=
  (complete_unlessFaulted h _).trans (congrArg _ (if_pos hrun))

theorem exec_sstart_of_running (hrun : s.run = true) : exec .sstart s = .next (s.raise .eBusy) :=
  complete_requireIdle_of_running h hrun _

/-- `SSTART` with no search in progress: only the two flags that say whether one begins look at the target store. -/
theorem exec_sstart_of_idle (hrun : s.run = false) :
    exec .sstart s = .next (((((s.setDig Odometer.zero).setPcnt 0).setResults s.res 0).setSearchFlags
      (decide (0 < s.pendingCount)) (!decide (0 < s.pendingCount)) false).answer .ok s.pendingWord) :=
  complete_requireIdle_of_idle h hrun _

theorem exec_sstop_of_idle (hrun : s.run = false) : exec .sstop s = .next (s.raise .eNotrun) :=
  complete_requireRun_of_idle h hrun _

theorem exec_sstop_of_running (hrun : s.run = true) :
    exec .sstop s = .next ((s.setSearchFlags false false false).answer .ok 0) :=
  complete_requireRun_of_running h hrun _

end

/-- Settles O38: the two outcomes of a start are those of its test for a pending slot. -/
theorem sstartBeginsAndSstopAbandonsASearch : Obligations.SstartBeginsAndSstopAbandonsASearch := by
  unfold Obligations.SstartBeginsAndSstopAbandonsASearch
  refine fun s h => ⟨⟨rfl, rfl⟩, exec_sstart_of_running h, fun hrun some => ?_, fun hrun none => ?_, exec_sstop_of_idle h,
    exec_sstop_of_running h⟩
  · rw [exec_sstart_of_idle h hrun, decide_eq_true some]
    rfl
  · rw [exec_sstart_of_idle h hrun, State.pendingWord, none]
    rfl

end Sys2Proof.Machine
end

/-! ### The result FIFO: what each command does with the fault latch clear (45_results.md R200 to R202) -/

section
namespace Sys2Proof.Machine

theorem getElem?_eq_byteAt_le64 {bs : List Byte} {j : Nat} (hj : j < 8) (inside : j < bs.length) :
    bs[j]? = some (byteAt (le64 bs) j) := by
  rw [byteAt_le64 bs j hj, List.getD_eq_getElem bs 0 inside, List.getElem?_eq_getElem inside]

/-- `KLO` holds the first eight bytes of the key (R200). -/
theorem Record.getElem?_key_eq_byteAt_klo {r : Record} (len : r.key.length = 16) {j : Nat} (hj : j < 8) :
    r.key[j]? = some (byteAt r.klo j) := by
  have inside : j < (r.key.take 8).length := by
    rw [List.length_take]
    omega
  exact (List.getElem?_take_of_lt hj).symm.trans (getElem?_eq_byteAt_le64 hj inside)

/-- `KHI` holds the last eight bytes of the key (R200). -/
theorem Record.getElem?_key_eq_byteAt_khi {r : Record} (len : r.key.length = 16) {j : Nat} (hj : j < 8) :
    r.key[8 + j]? = some (byteAt r.khi j) := by
  have inside : j < (r.key.drop 8).length := by
    rw [List.length_drop]
    omega
  exact List.getElem?_drop.symm.trans (getElem?_eq_byteAt_le64 hj inside)

/-- A key whose last byte is the terminator has a tail word with bits 63:56 zero (R201). -/
theorem Record.byteAt_khi_of_terminated {r : Record} (len : r.key.length = 16) (last : r.key[15]? = some 0) :
    byteAt r.khi 7 = 0 :=
  Option.some.inj ((r.getElem?_key_eq_byteAt_khi len (by decide)).symm.trans last)

theorem State.headRecord_of_cons {s : State} {r : Record} {rest : List Record} (hres : s.res = r :: rest) :
    s.headRecord = r := by
  rw [State.headRecord, hres, List.headD_cons]

/-! ### Popping: the length of the store, what the FIFO holds, and what stands above it -/

theorem length_shiftRecords {records : List Record} {n : Nat} (pos : 0 < n) (h : n ≤ records.length) :
    (shiftRecords records n).length = records.length := by
  simp only [shiftRecords, List.length_append, List.length_take, List.length_drop]
  omega

/-- Record `n-1` and those above it keep what they hold. -/
theorem drop_shiftRecords {records : List Record} {n : Nat} (h : n ≤ records.length) :
    (shiftRecords records n).drop (n - 1) = records.drop (n - 1) :=
  List.drop_left' (by rw [List.length_take, List.length_drop]; omega)

/-- The state after `RPOP` has removed the head record, before the answer. -/
def State.popped (s : State) : State := s.setResults (shiftRecords s.res s.rn.toNat) (s.rn - 1)

theorem State.popped_records {s : State} (nonempty : s.rn ≠ 0) (fits : s.rn.toNat ≤ s.res.length) :
    s.popped.records = s.records.tail := by
  have fewer : (s.rn - 1).toNat = s.rn.toNat - 1 := by
    bv_omega
  have held : s.popped.records = (shiftRecords s.res s.rn.toNat).take (s.rn - 1).toNat := rfl
  rw [held, fewer, take_shiftRecords fits, List.drop_one]
  rfl

section
variable {s : State} (h : s.fault = false)
include h

theorem exec_rrd_three : exec (.rrd 3) s = .next (s.raise .eRange) :=
  complete_unlessFaulted h _

/-- A legal selector passes the range test and meets the test for an empty FIFO (R201). -/
theorem exec_rrd_of_ne_three {sel : BitVec 2} (hsel : sel ≠ 3) :
    exec (.rrd sel) s =
      .next (if s.rn = 0 then s.raise .eEmpty else s.answer .ok (s.headRecord.select sel.toNat)) :=
  (complete_unlessFaulted h _).trans (congrArg _ (if_neg fun e => hsel (BitVec.eq_of_toNat_eq e)))

theorem exec_rrd_of_empty (empty : s.rn = 0) {sel : BitVec 2} (hsel : sel ≠ 3) :
    exec (.rrd sel) s = .next (s.raise .eEmpty) :=
  (exec_rrd_of_ne_three h hsel).trans (congrArg _ (if_pos empty))

theorem exec_rrd_of_cons (nonempty : s.rn ≠ 0) {r : Record} {rest : List Record} (hres : s.res = r :: rest)
    {sel : BitVec 2} (hsel : sel ≠ 3) : exec (.rrd sel) s = .next (s.answer .ok (r.select sel.toNat)) := by
  rw [exec_rrd_of_ne_three h hsel, if_neg nonempty, State.headRecord_of_cons hres]

theorem exec_rpop_of_empty (empty : s.rn = 0) : exec .rpop s = .next (s.raise .eEmpty) :=
  (complete_unlessFaulted h _).trans (congrArg _ (if_pos empty))

theorem exec_rpop_of_nonempty (nonempty : s.rn ≠ 0) : exec .rpop s = .next (s.popped.answer .ok 0) :=
  (complete_unlessFaulted h _).trans (congrArg _ (if_neg nonempty))

end

/-! ### The result FIFO: the statements about the commands -/

/-- Settles O49: the three selectors answer `hash`, `KLO` and `KHI` of the head, whose bytes are those of the key. -/
theorem rrdAnswersAWordOfTheHead : Obligations.RrdAnswersAWordOfTheHead := by
  unfold Obligations.RrdAnswersAWordOfTheHead
  refine fun s h => ⟨fun _ => rfl, exec_rrd_three h, fun empty _ => exec_rrd_of_empty h empty,
    fun nonempty r rest hres len => ?_⟩
  have answers {sel : BitVec 2} (hsel : sel ≠ 3) := exec_rrd_of_cons h nonempty hres hsel
  exact ⟨answers (by decide), r.klo, r.khi, answers (by decide), answers (by decide),
    fun _ hj => ⟨r.getElem?_key_eq_byteAt_klo len hj, r.getElem?_key_eq_byteAt_khi len hj⟩, r.byteAt_khi_of_terminated len⟩

/-- Settles O50: `RPOP` writes the two elements of the FIFO only, and the three facts about its store are those of
`shiftRecords`. -/
theorem rpopRemovesTheHead : Obligations.RpopRemovesTheHead := by
  unfold Obligations.RpopRemovesTheHead
  refine fun s h => ⟨rfl, exec_rpop_of_empty h, fun nonempty fits => ?_⟩
  have pos : 0 < s.rn.toNat := by
    bv_omega
  exact ⟨_, exec_rpop_of_nonempty h nonempty, rfl, State.popped_records nonempty fits, length_shiftRecords pos fits,
    drop_shiftRecords fits⟩

end Sys2Proof.Machine
end


/-! ### The system commands that only read (46_system.md R210, R211; 10_state.md R31, R32) -/

section
namespace Sys2Proof.Machine

/-- `NOP` writes nothing but its answer, and no test stands before it (R210). -/
theorem exec_nop (s : State) : exec .nop s = .next (s.answer .ok 0) := rfl

/-- Settles O52: the word of `NOP` is `OP` 0 with no operand, and its answer is `OK` with `DATA` 0. -/
theorem nopDoesNothing : Obligations.NopDoesNothing := by
  unfold Obligations.NopDoesNothing
  exact fun s => ⟨by decide, exec_nop s⟩

/-! ### The bits of `STATUS` -/

/-- The bits of `x` from bit 0 upwards are those of the list, and every bit above the list is 0. -/
def HasBits {n : Nat} (x : BitVec n) (bits : List Bool) : Prop := ∀ k, x.getLsbD k = bits.getD k false

theorem hasBits_zero (n : Nat) : HasBits (0 : BitVec n) [] := fun _ => BitVec.getLsbD_zero

/-- A flag packed below a word is its bit 0 and moves the others up by one. -/
theorem HasBits.append_ofBool {n : Nat} {x : BitVec n} {bits : List Bool} (h : HasBits x bits) (b : Bool) :
    HasBits (x ++ BitVec.ofBool b) (b :: bits)
  | 0 => BitVec.getLsbD_concat_zero
  | k + 1 => BitVec.getLsbD_concat_succ.trans (h k)

/-- The eight fields of `STATUS`, bit 0 first (R32). -/
theorem hasBits_packStatus (cmix fault tne rne hv fx fe run : Bool) :
    HasBits (packStatus cmix fault tne rne hv fx fe run) [run, fe, fx, hv, rne, tne, fault, cmix] :=
  (hasBits_zero 56).append_ofBool cmix |>.append_ofBool fault |>.append_ofBool tne |>.append_ofBool rne
    |>.append_ofBool hv |>.append_ofBool fx |>.append_ofBool fe |>.append_ofBool run

theorem chunkMixBit_eq (m : ChunkMixing) : chunkMixBit m = decide (m = .sequential) := by
  cases m <;> rfl

theorem hasBits_statusWord (s : State) :
    HasBits s.statusWord [s.run, s.fe, s.fx, s.hv, decide (0 < s.rn.toNat), decide (0 < s.pendingCount), s.fault,
      decide (s.cfg.chunkMix = .sequential)] :=
  chunkMixBit_eq s.cfg.chunkMix ▸ hasBits_packStatus _ _ _ _ _ _ _ _

/-! ### What `CRD` answers -/

/-- No register stands beyond index 0x0C (R31). -/
theorem State.csr_of_gt (s : State) {idx : Nat} (h : 0x0C < idx) : s.csr idx = none := by
  obtain ⟨k, rfl⟩ := Nat.exists_eq_add_of_le' h
  rfl

section
variable {s : State} {idx : BitVec 8}

/-- A register of the table is answered, whatever state the block is in (R211). -/
theorem exec_crd_of_some {v : Word} (h : s.csr idx.toNat = some v) : exec (.crd idx) s = .next (s.answer .ok v) := by
  show execCrd idx s = _
  rw [execCrd, h]
  rfl

/-- An index outside the table raises `E_RANGE` (R211). -/
theorem exec_crd_of_none (h : s.csr idx.toNat = none) : exec (.crd idx) s = .next (s.raise .eRange) := by
  show execCrd idx s = _
  rw [execCrd, h]
  rfl

end

/-- Settles O53: each index of the table names its register, `STATUS` is read bit by bit, and no other index names one. -/
theorem crdAnswersTheRegister : Obligations.CrdAnswersTheRegister := by
  unfold Obligations.CrdAnswersTheRegister
  intro s
  have bit := hasBits_statusWord s
  refine ⟨⟨s.statusWord, exec_crd_of_some rfl, bit 0, bit 1, bit 2, bit 3, bit 4, bit 5, bit 6, bit 7, fun k above => ?_⟩,
    exec_crd_of_some rfl, exec_crd_of_some rfl, exec_crd_of_some rfl, exec_crd_of_some rfl, exec_crd_of_some rfl,
    exec_crd_of_some rfl, exec_crd_of_some rfl, exec_crd_of_some rfl, exec_crd_of_some rfl, exec_crd_of_some rfl,
    exec_crd_of_some rfl, exec_crd_of_some rfl, fun idx => ⟨rfl, fun beyond => exec_crd_of_none (s.csr_of_gt beyond)⟩⟩
  rw [bit k]
  exact List.getD_eq_default _ _ above

end Sys2Proof.Machine
end

/-! ### An error other than `E_CONSIST` is raised before anything is written (60_exceptions.md R222, R224)

That a command which raises has written nothing is already in how a command ends; what is left to say is that only `raise` gives
such an error, and that the test of the fault latch stands before every command but three. -/

section
namespace Sys2Proof.Machine

theorem hasStatus_rsp (st : Status) (d : Word) : HasStatus (rsp st d) st := rsp_status st d

theorem not_hasStatus_rsp {a b : Status} (h : a ≠ b) (d : Word) : ¬ HasStatus (rsp a d) b := fun code =>
  h (Status.code_injective ((hasStatus_rsp a d).symm.trans code))

/-- A command whose response is an error other than `E_CONSIST` ended by raising it. -/
theorem CommandEnds.eq_raise {q : Bool} {s t : State} {r : ResponseWord} (h : CommandEnds q s t) (hr : t.rsps = r :: s.rsps)
    (hok : ¬ HasStatus r .ok) (hcon : ¬ HasStatus r .eConsist) : ∃ e, r = rsp e 0 ∧ t = s.raise e := by
  cases h with
  | raised e => exact ⟨e, (List.cons.inj hr).1.symm, rfl⟩
  | @answered u d channel data =>
    obtain ⟨rfl, -⟩ := List.cons.inj hr
    exact absurd (hasStatus_rsp .ok d) hok
  | @inconsistent u c channel loud =>
    obtain ⟨rfl, -⟩ := List.cons.inj hr
    exact absurd (hasStatus_rsp .eConsist c) hcon

/-- A word, legal or not, ends as a command does, from the state in which the block has taken it. -/
theorem step_commandEnds {s : State} {w : CommandWord} {rest : List CommandWord} (hs : s.cmds = w :: rest) :
    ∃ q t, step s = .next t ∧ CommandEnds q (s.setCmds rest) t := by
  cases hw : decode w with
  | error e => exact ⟨true, _, step_of_decode_error hs hw, .raised .eIllegal⟩
  | ok i =>
    obtain ⟨t, ht, ends⟩ := exec_commandEnds i (s.setCmds rest)
    exact ⟨_, t, (step_of_decode_ok hs hw).trans ht, ends⟩

/-- Settles O9: the only way to end under such a response is by `raise`, which writes the response and no more. -/
theorem failedCommandChangesNothing : Obligations.FailedCommandChangesNothing := by
  unfold Obligations.FailedCommandChangesNothing
  intro s t w rest r hs hstep hr hok hcon
  obtain ⟨q, t', hstep', ends⟩ := step_commandEnds hs
  obtain rfl : t = t' := Host.Outcome.next.inj (hstep.symm.trans hstep')
  obtain ⟨e, rfl, rfl⟩ := ends.eq_raise hr hok hcon
  exact ⟨rfl, rsp_data e 0⟩

/-! ### The test of the fault latch -/

theorem complete_unlessFaulted_of_latched {s : State} (h : s.fault = true) (f : State → State) :
    complete (unlessFaulted s f) = .next (s.raise .eFaulted) :=
  congrArg _ (unlessFaulted_of_latched h f)

/-- Every command but the three of 46_system.md makes the test first. -/
theorem exec_of_latched {i : Instr} {s : State} (h : s.fault = true) (hnop : i ≠ .nop) (hreset : i ≠ .reset)
    (hcrd : ∀ idx, i ≠ .crd idx) : exec i s = .next (s.raise .eFaulted) := by
  cases i with
  | nop => exact absurd rfl hnop
  | reset => exact absurd rfl hreset
  | crd idx => exact absurd rfl (hcrd idx)
  | _ => exact complete_unlessFaulted_of_latched h _

theorem exec_reset (s : State) : exec .reset s = .next (s.hardReset.answer .ok 0) := rfl

/-- `CRD` answers under `OK` or raises `E_RANGE`, whatever the latch holds. -/
theorem exec_crd_cases (idx : BitVec 8) (s : State) :
    (∃ v, exec (.crd idx) s = .next (s.answer .ok v)) ∨ exec (.crd idx) s = .next (s.raise .eRange) := by
  cases h : s.csr idx.toNat with
  | some v => exact .inl ⟨v, exec_crd_of_some h⟩
  | none => exact .inr (exec_crd_of_none h)

/-- Settles O10: the test of the latch refuses every command that makes it; the other three answer `OK`, or `E_RANGE` for
`CRD`. -/
theorem latchedFaultRefusesAllButThree : Obligations.LatchedFaultRefusesAllButThree := by
  unfold Obligations.LatchedFaultRefusesAllButThree
  intro i s latched
  split
  case isTrue exempt =>
    obtain rfl | rfl | ⟨idx, rfl⟩ := exempt
    · exact ⟨_, _, exec_nop s, rfl, not_hasStatus_rsp (by decide) 0⟩
    · exact ⟨_, _, exec_reset s, rfl, not_hasStatus_rsp (by decide) 0⟩
    · obtain ⟨v, answers⟩ | raises := exec_crd_cases idx s
      · exact ⟨_, _, answers, rfl, not_hasStatus_rsp (by decide) v⟩
      · exact ⟨_, _, raises, rfl, not_hasStatus_rsp (by decide) 0⟩
  case isFalse other =>
    obtain ⟨hnop, hreset, hcrd⟩ := not_or.1 other |>.imp_right not_or.1
    exact exec_of_latched latched hnop hreset (not_exists.1 hcrd)

end Sys2Proof.Machine
end

/-! ### The row a decoded word is of (30_encoding.md R71, R73, R74)

A word is of a row by its `OP` and by the reserved bits of its `ARG`; in this form the decoder's arms and the words of R223 are
each read off from one row. -/

section
namespace Sys2Proof

open Laws.EncodesItsRow (low32 low8 low8' low2)

theorem opField_append (op : BitVec 8) (arg : BitVec 64) : opField (op ++ arg) = op := BitVec.extractLsb'_append_eq_left

theorem argField_append (op : BitVec 8) (arg : BitVec 64) : argField (op ++ arg) = arg := BitVec.extractLsb'_append_eq_right

/-- A word is its two fields (R70). -/
theorem opField_append_argField (w : CommandWord) : opField w ++ argField w = w :=
  (BitVec.extractLsb'_append_extractLsb'_eq_extractLsb' rfl).trans BitVec.extractLsb'_eq_self

theorem and_rowMask (w : CommandWord) (i : Instr) :
    w &&& i.rowMask = opField w ++ (argField w &&& i.format.reservedMask) :=
  calc w &&& i.rowMask = (opField w ++ argField w) &&& i.rowMask := by rw [opField_append_argField]
    _ = (opField w &&& 0xFF) ++ (argField w &&& i.format.reservedMask) := BitVec.and_append
    _ = opField w ++ (argField w &&& i.format.reservedMask) := congrArg (· ++ _) BitVec.and_allOnes

/-- `OP` and `ARG` are those of a word of the command's row. -/
def OnRow (op : Nat) (arg : BitVec 64) (i : Instr) : Prop := i.opcode.toNat = op ∧ arg &&& i.format.reservedMask = 0

theorem onRow_iff (w : CommandWord) (i : Instr) :
    OnRow (opField w).toNat (argField w) i ↔ w &&& i.rowMask = i.rowMatch := by
  rw [OnRow, BitVec.toNat_inj, and_rowMask, Instr.rowMatch]
  constructor
  · rintro ⟨opcode, reserved⟩
    rw [opcode, reserved]
  · intro row
    have opcode := congrArg opField row
    have reserved := congrArg argField row
    rw [opField_append, opField_append] at opcode
    rw [argField_append, argField_append] at reserved
    exact ⟨opcode.symm, reserved⟩

/-- Where the bits of `arg` from `k` on are 0, a mask of none but those bits finds nothing. -/
theorem and_eq_zero_of_high {arg mask : BitVec 64} {k n : Nat} (width : k + n = 64) (high : arg.extractLsb' k n = 0)
    (low : ∀ j, j < k → mask.getLsbD j = false) : arg &&& mask = 0 := by
  refine BitVec.eq_of_getLsbD_eq fun j hj => ?_
  by_cases below : j < k
  · simp [low j below]
  · have inside : j - k < n := by omega
    have place : k + (j - k) = j := by omega
    have bit : (arg.extractLsb' k n).getLsbD (j - k) = false := high ▸ BitVec.getLsbD_zero
    rw [BitVec.getLsbD_extractLsb', place, decide_eq_true inside, Bool.true_and] at bit
    simp [bit]

/-! One lemma per format: what its decoder gives is of the row of the command it was asked for. -/

section
variable {op : Nat} {arg : BitVec 64} {i j : Instr}

/-- A format with reserved bits gives its command only when its test finds them 0. -/
theorem onRow_of_ite {p : Prop} [Decidable p] (h : (if p then .ok i else .error .reservedBit) = (.ok j : Except DecodeReject Instr))
    (opcode : i.opcode.toNat = op) (zero : p → arg &&& i.format.reservedMask = 0) : OnRow op arg j := by
  split at h
  case isTrue hp =>
    cases h
    exact ⟨opcode, zero hp⟩
  case isFalse => cases h

theorem onRow_of_decodeN (h : decodeN arg i = .ok j) (opcode : i.opcode.toNat = op) : OnRow op arg j :=
  onRow_of_ite h opcode fun zero => by
    rw [zero]
    exact BitVec.zero_and

theorem onRow_of_decodeW {mk : BitVec 64 → Instr} (h : decodeW arg mk = .ok j)
    (row : ∀ v, (mk v).opcode.toNat = op ∧ (mk v).format = .W) : OnRow op arg j := by
  cases h
  obtain ⟨opcode, format⟩ := row arg
  exact ⟨opcode, format ▸ BitVec.and_zero⟩

theorem onRow_of_decodeP {mk : BitVec 32 → BitVec 32 → Instr} (h : decodeP arg mk = .ok j)
    (row : ∀ n t, (mk n t).opcode.toNat = op ∧ (mk n t).format = .P) : OnRow op arg j := by
  cases h
  obtain ⟨opcode, format⟩ := row (arg.extractLsb' 0 32) (arg.extractLsb' 32 32)
  exact ⟨opcode, format ▸ BitVec.and_zero⟩

theorem onRow_of_decodeL {mk : BitVec 32 → Instr} (h : decodeL arg mk = .ok j)
    (row : ∀ v, (mk v).opcode.toNat = op ∧ (mk v).format = .L) : OnRow op arg j := by
  obtain ⟨opcode, format⟩ := row (arg.extractLsb' 0 32)
  exact onRow_of_ite h opcode fun high => format ▸ and_eq_zero_of_high rfl high low32

/-- `B` and `S8` reserve the same bits. -/
theorem onRow_of_decodeB {mk : BitVec 8 → Instr} (h : decodeB arg mk = .ok j)
    (row : ∀ v, (mk v).opcode.toNat = op ∧ ((mk v).format = .B ∨ (mk v).format = .S8)) : OnRow op arg j := by
  obtain ⟨opcode, format | format⟩ := row (arg.extractLsb' 0 8)
  · exact onRow_of_ite h opcode fun high => format ▸ and_eq_zero_of_high rfl high low8
  · exact onRow_of_ite h opcode fun high => format ▸ and_eq_zero_of_high rfl high low8'

theorem onRow_of_decodeS2 {mk : BitVec 2 → Instr} (h : decodeS2 arg mk = .ok j)
    (row : ∀ v, (mk v).opcode.toNat = op ∧ (mk v).format = .S2) : OnRow op arg j := by
  obtain ⟨opcode, format⟩ := row (arg.extractLsb' 0 2)
  exact onRow_of_ite h opcode fun high => format ▸ and_eq_zero_of_high rfl high low2

/-- Each arm of the opcode map, by the decoder of its format. -/
theorem onRow_of_decodeFields (h : decodeFields op arg = .ok j) : OnRow op arg j := by
  unfold decodeFields at h
  split at h
  case h_1 | h_5 | h_6 | h_13 | h_14 | h_15 | h_16 | h_19 | h_20 | h_22 | h_24 | h_26 | h_28 => exact onRow_of_decodeN h rfl
  case h_2 | h_3 | h_4 | h_9 | h_12 | h_18 | h_21 | h_23 => exact onRow_of_decodeW h fun _ => ⟨rfl, rfl⟩
  case h_7 | h_10 => exact onRow_of_decodeL h fun _ => ⟨rfl, rfl⟩
  case h_8 => exact onRow_of_decodeP h fun _ _ => ⟨rfl, rfl⟩
  case h_11 | h_17 => exact onRow_of_decodeB h fun _ => ⟨rfl, .inl rfl⟩
  case h_27 => exact onRow_of_decodeB h fun _ => ⟨rfl, .inr rfl⟩
  case h_25 => exact onRow_of_decodeS2 h fun _ => ⟨rfl, rfl⟩
  case h_29 => cases h

end

/-- A decoded word is of the row of its command (R73). -/
theorem and_rowMask_of_decode_ok {w : CommandWord} {i : Instr} (h : decode w = .ok i) : w &&& i.rowMask = i.rowMatch :=
  (onRow_iff w i).1 (onRow_of_decodeFields h)

/-- A word of no row is rejected (R74). -/
theorem exists_decode_error {w : CommandWord} (h : ∀ i : Instr, w &&& i.rowMask ≠ i.rowMatch) : ∃ e, decode w = .error e := by
  cases hw : decode w with
  | error e => exact ⟨e, rfl⟩
  | ok i => exact absurd (and_rowMask_of_decode_ok hw) (h i)

/-- No command has `OP` 0x50 (R74 (a)). -/
theorem opcode_ne_0x50 (i : Instr) : i.opcode.toNat ≠ 0x50 := by
  cases i <;> simp [Instr.opcode]

/-- `OP` 0x04 is `HFIN` alone. -/
theorem eq_hfin_of_opcode {i : Instr} (h : i.opcode.toNat = 0x04) : i = .hfin := by
  cases i with
  | hfin => rfl
  | _ => simp [Instr.opcode] at h

/-- Settles O7: a word of no row is rejected, and the answer to a rejected word does not ask for the latch. Of the rule's two
words, one has an `OP` outside the map, the other is `HFIN` with a reserved bit set. -/
theorem illegalWordAnswersAndChangesNothing : Obligations.IllegalWordAnswersAndChangesNothing := by
  unfold Obligations.IllegalWordAnswersAndChangesNothing
  refine ⟨fun s w rest hs noRow => ?_, fun i row => ?_, fun i row => ?_⟩
  · obtain ⟨e, rejected⟩ := exists_decode_error noRow
    exact Machine.step_of_decode_error hs rejected
  · obtain ⟨opcode, -⟩ := (onRow_iff _ i).2 row
    exact opcode_ne_0x50 i opcode
  · obtain ⟨opcode, reserved⟩ := (onRow_iff _ i).2 row
    obtain rfl := eq_hfin_of_opcode opcode
    exact absurd reserved (by decide)

end Sys2Proof
end

/-! ### What the first command after reset sees (70_reset_and_hazards.md R252)

The reset state passes the test of the latch and of no search, fails those of a valid hash, of a search in progress and of a waiting
record, and its buffer holds zero bytes only. -/

section
namespace Sys2Proof.Machine

section
variable {s : State} (h : s.fault = false)
include h

/-- Within the alphabet `ANEXT` answers the byte under the cursor and moves on (42_alphabet.md R144). -/
theorem exec_anext_of_lt (hac : s.ac.toNat < Config.alphaCount) :
    exec .anext s = .next ((s.setAc (s.ac + 1)).answer .ok (zext64 (alpha s.ac))) :=
  (complete_unlessFaulted h _).trans (congrArg _ (if_neg (Nat.not_le.2 hac)))

theorem exec_srun_of_idle (hrun : s.run = false) (n : BitVec 64) : exec (.srun n) s = .next (s.raise .eNotrun) :=
  complete_requireRun_of_idle h hrun _

theorem exec_hread_of_invalid (hv : s.hv = false) : exec .hread s = .next (s.raise .eNoinit) :=
  (exec_hread h).trans (congrArg _ (requireHash_of_invalid hv _))

end

/-! ### What the commands read of the reset state -/

/-- Without an allocated slot nothing is pending, whatever the store holds (43_targetindex.md R151). -/
theorem State.pendingCount_of_tn_zero {s : State} (htn : s.tn = 0) : s.pendingCount = 0 := by
  have empty : s.allocated = [] := by
    rw [State.allocated, htn]
    rfl
  rw [State.pendingCount, empty]
  rfl

@[simp] theorem State.resetWith_pendingCount (c : Params) : (State.resetWith c).pendingCount = 0 :=
  State.pendingCount_of_tn_zero rfl

@[simp] theorem State.resetWith_pendingWord (c : Params) : (State.resetWith c).pendingWord = 0 :=
  congrArg (BitVec.ofNat 64) (State.resetWith_pendingCount c)

/-- With every flag clear `STATUS` shows the reading of the chunk mix alone (10_state.md R32). -/
theorem packStatus_of_flags_clear (m : ChunkMixing) :
    packStatus (chunkMixBit m) false false false false false false false = if m = .literal then 0 else 0x80 := by
  cases m <;> decide

theorem State.resetWith_statusWord (c : Params) :
    (State.resetWith c).statusWord = if c.chunkMix = .literal then 0 else 0x80 := by
  rw [← packStatus_of_flags_clear, State.statusWord, State.resetWith_pendingCount]
  rfl

/-- A buffer never written reads as zero bytes (20_memory.md R53). -/
theorem messageBytes_resetWith (c : Params) (n : Nat) : messageBytes (State.resetWith c) n = List.replicate n 0 := by
  have bytes : messageBytes (State.resetWith c) n = (List.range n).map fun _ => (0 : Byte) := rfl
  rw [bytes, List.map_const', List.length_range]

/-- `FHASH` after reset hashes zero bytes. -/
theorem exec_fhash_resetWith {c : Params} {n : BitVec 32} (hn : n.toNat ≤ c.msgCap.toNat) :
    exec (.fhash n) (State.resetWith c) =
      .next ((State.resetWith c).answer .ok (forwardHash c (List.replicate n.toNat 0))) := by
  rw [exec_fhash_of_le rfl hn, messageBytes_resetWith, State.resetWith_cfg]

/-- Settles O55: each command takes the branch that the reset value of the element it tests selects, and none but `FHASH`
looks at a parameter for that. -/
theorem firstCommandsAfterReset : Obligations.FirstCommandsAfterReset := by
  unfold Obligations.FirstCommandsAfterReset
  intro c hcap s answers
  have clear : s.fault = false := rfl
  have status : s.csr 0x00 = some (if c.chunkMix = .literal then 0 else 0x80) :=
    congrArg some (State.resetWith_statusWord c)
  have pending : s.pendingWord = 0 := State.resetWith_pendingWord c
  have cursor : s.ac.toNat < Config.alphaCount := Nat.succ_pos 93
  refine ⟨⟨_, exec_crd_of_some status, rfl⟩, ⟨_, exec_tsize clear, ?_⟩, ⟨_, exec_hread_of_invalid clear rfl, rfl⟩,
    fun n => ⟨_, exec_srun_of_idle clear rfl n, rfl⟩, ⟨_, exec_sstop_of_idle clear rfl, rfl⟩,
    fun sel hsel => ⟨_, exec_rrd_of_empty clear rfl hsel, rfl⟩, ⟨_, exec_rpop_of_empty clear rfl, rfl⟩,
    ⟨_, exec_anext_of_lt clear cursor, rfl⟩, ⟨_, exec_fhash_resetWith (Nat.zero_le _), ?_⟩,
    ⟨_, exec_fhash_resetWith ((by decide : 8 ≤ 16).trans hcap), rfl⟩, ⟨_, exec_sstart_of_idle clear rfl, ?_, ?_⟩⟩
  · rw [State.answer_rsps, pending]
    rfl
  · have empty : List.replicate (0 : BitVec 32).toNat (0 : Byte) = [] := rfl
    rw [empty, forwardHash_nil]
    rfl
  · rw [State.answer_fe, State.setSearchFlags_fe, State.resetWith_pendingCount]
    rfl
  · rw [State.answer_rsps, pending]
    rfl

end Sys2Proof.Machine
end

/-! ### The round trip of a command word (30_encoding.md R70 to R74)

One lemma per format says what its decoder makes of a well-placed operand, one that nothing of `ARG` is lost, and one that the test
of the reserved bits is the mask of the row. The opcode map then adds nothing but its 28 arms. -/

section
namespace Sys2Proof

/-- The decoder reads the two fields the encoder has put together. -/
theorem decode_append (op : BitVec 8) (arg : BitVec 64) : decode (op ++ arg) = decodeFields op.toNat arg := by
  unfold decode
  rw [opField_append, argField_append]

/-- A field zero-extended to `ARG` leaves every bit above it 0, and is read back from its low bits. -/
theorem extractLsb'_setWidth_high {n : Nat} (m : Nat) (v : BitVec n) : (v.setWidth 64).extractLsb' n m = 0 := by
  refine BitVec.eq_of_getLsbD_eq fun j _ => ?_
  simp

theorem extractLsb'_setWidth_low {n : Nat} (h : n ≤ 64) (v : BitVec n) : (v.setWidth 64).extractLsb' 0 n = v := by
  refine BitVec.eq_of_getLsbD_eq fun j hj => ?_
  have inside : j < 64 := by omega
  simp [hj, inside]

/-- Where the high bits of `ARG` are 0 the low field is all of it. -/
theorem setWidth_extractLsb'_of_high {arg : BitVec 64} {k n : Nat} (width : k + n = 64) (high : arg.extractLsb' k n = 0) :
    (arg.extractLsb' 0 k).setWidth 64 = arg := by
  refine BitVec.eq_of_getLsbD_eq fun j hj => ?_
  by_cases below : j < k
  · simp [hj, below]
  · have inside : j - k < n := by omega
    have place : k + (j - k) = j := by omega
    have bit : (arg.extractLsb' k n).getLsbD (j - k) = false := high ▸ BitVec.getLsbD_zero
    rw [BitVec.getLsbD_extractLsb', place, decide_eq_true inside, Bool.true_and] at bit
    simp [below, bit]

/-! #### What each format's decoder makes of the encoder's `ARG` -/

theorem decodeN_zero (i : Instr) : decodeN 0 i = .ok i := if_pos rfl

/-- The formats whose operand is the low field, with all above it reserved: `L`, `B`, `S8` and `S2`. -/
theorem decode_low_setWidth {n : Nat} (m : Nat) (h : n ≤ 64) (v : BitVec n) (mk : BitVec n → Instr) :
    (if (v.setWidth 64).extractLsb' n m = 0 then .ok (mk ((v.setWidth 64).extractLsb' 0 n)) else .error .reservedBit) =
      (.ok (mk v) : Except DecodeReject Instr) := by
  rw [if_pos (extractLsb'_setWidth_high m v), extractLsb'_setWidth_low h]

theorem decodeP_append (total n : BitVec 32) (mk : BitVec 32 → BitVec 32 → Instr) :
    decodeP (total ++ n) mk = .ok (mk n total) := by
  have low : (total ++ n).extractLsb' 0 32 = n := BitVec.extractLsb'_append_eq_right
  have high : (total ++ n).extractLsb' 32 32 = total := BitVec.extractLsb'_append_eq_left
  rw [decodeP, low, high]

/-- Settles O1: `OP` selects the arm of the command, whose format reads back what the encoder placed. -/
theorem decodingAnEncodedCommandGivesItBack : Obligations.DecodingAnEncodedCommandGivesItBack := by
  unfold Obligations.DecodingAnEncodedCommandGivesItBack
  intro i
  rw [encode, decode_append]
  cases i with
  | nop | hfin | hread | mrd8 | mrd64 | arst | anext | tsize | tclr | sstart | sstop | rpop | reset => exact decodeN_zero _
  | hinit | hchunk | htail | invtm | mwr64 | tins | tprobe | srun => rfl
  | fhash v | mseta v => exact decode_low_setWidth 32 (by decide) v _
  | phash n total => exact decodeP_append total n _
  | mwr8 v | achk v | crd v => exact decode_low_setWidth 56 (by decide) v _
  | rrd v => exact decode_low_setWidth 62 (by decide) v _

/-! #### Nothing of a decoded `ARG` is lost -/

section
variable {arg : BitVec 64} {i j : Instr}

/-- A format with reserved bits gives its command only when its test finds them 0. -/
theorem arg_of_ite {p : Prop} [Decidable p] (h : (if p then .ok i else .error .reservedBit) = (.ok j : Except DecodeReject Instr))
    (whole : p → i.arg = arg) : j.arg = arg := by
  split at h
  case isTrue hp =>
    cases h
    exact whole hp
  case isFalse => cases h

theorem arg_of_decodeN (h : decodeN arg i = .ok j) (row : i.arg = 0) : j.arg = arg :=
  arg_of_ite h fun zero => row.trans zero.symm

theorem arg_of_decodeW {mk : BitVec 64 → Instr} (h : decodeW arg mk = .ok j) (row : ∀ v, (mk v).arg = v) : j.arg = arg := by
  cases h
  exact row arg

/-- The formats whose operand is the low field: `L`, `B`, `S8` and `S2`. -/
theorem arg_of_decode_low {k n : Nat} {mk : BitVec k → Instr} (width : k + n = 64)
    (h : (if arg.extractLsb' k n = 0 then .ok (mk (arg.extractLsb' 0 k)) else .error .reservedBit) =
      (.ok j : Except DecodeReject Instr))
    (row : ∀ v, (mk v).arg = v.setWidth 64) : j.arg = arg :=
  arg_of_ite h fun high => (row _).trans (setWidth_extractLsb'_of_high width high)

theorem arg_of_decodeP {mk : BitVec 32 → BitVec 32 → Instr} (h : decodeP arg mk = .ok j)
    (row : ∀ n t, (mk n t).arg = t ++ n) : j.arg = arg := by
  cases h
  rw [row]
  exact (BitVec.extractLsb'_append_extractLsb'_eq_extractLsb' rfl).trans BitVec.extractLsb'_eq_self

/-- Each arm of the opcode map, by the decoder of its format. -/
theorem arg_of_decodeFields {op : Nat} (h : decodeFields op arg = .ok j) : j.arg = arg := by
  unfold decodeFields at h
  split at h
  case h_1 | h_5 | h_6 | h_13 | h_14 | h_15 | h_16 | h_19 | h_20 | h_22 | h_24 | h_26 | h_28 => exact arg_of_decodeN h rfl
  case h_2 | h_3 | h_4 | h_9 | h_12 | h_18 | h_21 | h_23 => exact arg_of_decodeW h fun _ => rfl
  case h_7 | h_10 | h_11 | h_17 | h_25 | h_27 => exact arg_of_decode_low rfl h fun _ => rfl
  case h_8 => exact arg_of_decodeP h fun _ _ => rfl
  case h_29 => cases h

end

/-- Settles O2: the command has the word's `OP`, being of its row, and its `ARG`. -/
theorem encodingADecodedWordGivesItBack : Obligations.EncodingADecodedWordGivesItBack := by
  unfold Obligations.EncodingADecodedWordGivesItBack
  intro cw i h
  obtain ⟨opcode, -⟩ := onRow_of_decodeFields h
  rw [encode, BitVec.eq_of_toNat_eq opcode, arg_of_decodeFields h, opField_append_argField]

/-! #### A word with the `OP` of a row: its command, or the reserved bit (R73, R74) -/

/-- A mask of all bits from `k` on finds nothing exactly where those bits are 0. -/
theorem extractLsb'_high_eq_zero {arg mask : BitVec 64} {k n : Nat}
    (full : mask.extractLsb' k n = BitVec.allOnes n) (h : arg &&& mask = 0) : arg.extractLsb' k n = 0 := by
  have fields : arg.extractLsb' k n &&& mask.extractLsb' k n = 0 := by
    rw [← BitVec.extractLsb'_and, h]
    exact BitVec.extractLsb'_zero
  rwa [full, BitVec.and_allOnes] at fields

/-- What the row of `i` makes of `arg`: a command of the row, or a rejection for its reserved bits. -/
def RowDecodes (i : Instr) (arg : BitVec 64) (r : Except DecodeReject Instr) : Prop :=
  (arg &&& i.format.reservedMask = 0 → ∃ j, r = .ok j ∧ j.opcode = i.opcode) ∧
    (arg &&& i.format.reservedMask ≠ 0 → r = .error .reservedBit)

section
variable {i : Instr} {arg : BitVec 64}

/-- The test a format makes is whether the row's mask finds a bit. -/
theorem rowDecodes_ite {p : Prop} [Decidable p] {j : Instr} (opcode : j.opcode = i.opcode)
    (test : p ↔ arg &&& i.format.reservedMask = 0) : RowDecodes i arg (if p then .ok j else .error .reservedBit) :=
  ⟨fun zero => ⟨j, if_pos (test.2 zero), opcode⟩, fun set => if_neg fun hp => set (test.1 hp)⟩

/-- The formats that reserve nothing. -/
theorem rowDecodes_ok {j : Instr} (opcode : j.opcode = i.opcode) (mask : i.format.reservedMask = 0) :
    RowDecodes i arg (.ok j) :=
  ⟨fun _ => ⟨j, rfl, opcode⟩, fun set => absurd (by rw [mask]; exact BitVec.and_zero) set⟩

/-- The formats that reserve the bits from `k` on. -/
theorem rowDecodes_high {f : Format} {k n : Nat} {j : Instr} (format : i.format = f) (opcode : j.opcode = i.opcode)
    (width : k + n = 64) (full : f.reservedMask.extractLsb' k n = BitVec.allOnes n)
    (low : ∀ b, b < k → f.reservedMask.getLsbD b = false) :
    RowDecodes i arg (if arg.extractLsb' k n = 0 then .ok j else .error .reservedBit) := by
  subst format
  exact rowDecodes_ite opcode ⟨fun high => and_eq_zero_of_high width high low, extractLsb'_high_eq_zero full⟩

/-- Format `N` reserves all of `ARG`. -/
theorem rowDecodes_decodeN (format : i.format = .N) : RowDecodes i arg (decodeN arg i) := by
  have whole : arg &&& i.format.reservedMask = arg := format ▸ BitVec.and_allOnes
  exact rowDecodes_ite rfl (by rw [whole])

end

open Laws.EncodesItsRow (low32 low8 low8' low2)

theorem decodeFields_opcode (i : Instr) (arg : BitVec 64) : RowDecodes i arg (decodeFields i.opcode.toNat arg) := by
  cases i with
  | nop | hfin | hread | mrd8 | mrd64 | arst | anext | tsize | tclr | sstart | sstop | rpop | reset =>
    exact rowDecodes_decodeN rfl
  | hinit | hchunk | htail | invtm | mwr64 | tins | tprobe | srun | phash => exact rowDecodes_ok rfl rfl
  | fhash | mseta => exact rowDecodes_high (f := .L) rfl rfl rfl (by decide) low32
  | mwr8 | achk => exact rowDecodes_high (f := .B) rfl rfl rfl (by decide) low8
  | crd => exact rowDecodes_high (f := .S8) rfl rfl rfl (by decide) low8'
  | rrd => exact rowDecodes_high (f := .S2) rfl rfl rfl (by decide) low2

theorem decode_of_opcode {cw : CommandWord} {i : Instr} (h : i.opcode = opField cw) :
    RowDecodes i (argField cw) (decode cw) := by
  rw [decode, ← h]
  exact decodeFields_opcode i _

/-- Settles O3: a word is of a row by its `OP` and its reserved bits, and the arm of that `OP` tests just these. -/
theorem decoderSelectsTheRowByMaskAndMatch : Obligations.DecoderSelectsTheRowByMaskAndMatch := by
  unfold Obligations.DecoderSelectsTheRowByMaskAndMatch
  refine fun cw i => ⟨and_rowMask_of_decode_ok, fun row => ?_, fun k row row' => ?_⟩
  · obtain ⟨opcode, reserved⟩ := (onRow_iff cw i).2 row
    exact (decode_of_opcode (BitVec.eq_of_toNat_eq opcode)).1 reserved
  · obtain ⟨opcode, -⟩ := (onRow_iff cw i).2 row
    obtain ⟨opcode', -⟩ := (onRow_iff cw k).2 row'
    exact BitVec.eq_of_toNat_eq (opcode.trans opcode'.symm)

/-- Only an `OP` of the map meets the test of reserved bits, and with no operand bit set it passes. -/
theorem decodeFields_zero_of_reservedBit {op : Nat} {arg : BitVec 64} (h : decodeFields op arg = .error .reservedBit) :
    ∃ j, decodeFields op 0 = .ok j := by
  unfold decodeFields at h
  split at h
  case h_29 => cases h
  all_goals exact ⟨_, rfl⟩

/-- A word rejected for a reserved bit has the `OP` of some command. -/
theorem exists_opcode_of_reservedBit {cw : CommandWord} (h : decode cw = .error .reservedBit) :
    ∃ i : Instr, i.opcode = opField cw := by
  obtain ⟨j, hj⟩ := decodeFields_zero_of_reservedBit h
  exact ⟨j, BitVec.eq_of_toNat_eq (onRow_of_decodeFields hj).1⟩

/-- A word with the `OP` of a command is a command or is rejected for a reserved bit. -/
theorem decode_ne_unknownOpcode {cw : CommandWord} {i : Instr} (h : i.opcode = opField cw) :
    decode cw ≠ .error .unknownOpcode := by
  intro unknown
  obtain ⟨clear, set⟩ := decode_of_opcode h
  by_cases reserved : argField cw &&& i.format.reservedMask = 0
  · obtain ⟨j, hj, -⟩ := clear reserved
    cases hj.symm.trans unknown
  · cases (set reserved).symm.trans unknown

/-- Settles O5: with an `OP` of the map the arm rejects for a reserved bit or not at all, and every other result names an `OP`
of the map. -/
theorem illegalWordsAreTheUnknownAndTheReserved : Obligations.IllegalWordsAreTheUnknownAndTheReserved := by
  unfold Obligations.IllegalWordsAreTheUnknownAndTheReserved
  refine fun cw => ⟨⟨fun unknown i opcode => decode_ne_unknownOpcode opcode unknown, fun none => ?_⟩, fun reserved => ?_, ?_⟩
  · cases h : decode cw with
    | ok j => exact absurd (BitVec.eq_of_toNat_eq (onRow_of_decodeFields h).1) (none j)
    | error e =>
      cases e with
      | unknownOpcode => rfl
      | reservedBit =>
        obtain ⟨i, opcode⟩ := exists_opcode_of_reservedBit h
        exact absurd opcode (none i)
  · obtain ⟨i, opcode⟩ := exists_opcode_of_reservedBit reserved
    refine ⟨i, opcode, fun clear => ?_⟩
    obtain ⟨j, hj, -⟩ := (decode_of_opcode opcode).1 clear
    cases hj.symm.trans reserved
  · rintro ⟨i, opcode, set⟩
    exact (decode_of_opcode opcode).2 set

/-- Settles O4: each word is evaluated by the decoder. -/
theorem wordsOfTheEncodingTablesDecode : Obligations.WordsOfTheEncodingTablesDecode := by
  unfold Obligations.WordsOfTheEncodingTablesDecode
  decide

end Sys2Proof
end

/-! ### Runs of the host's words (00_scope.md R10, R11; 30_encoding.md R75) -/

section
namespace Sys2Proof.Machine

/-- The word of a command runs that command. -/
theorem step_of_encode {s : State} {i : Instr} {rest : List CommandWord} (hs : s.cmds = encode i :: rest) :
    step s = exec i (s.setCmds rest) :=
  step_of_decode_ok hs (decodingAnEncodedCommandGivesItBack i)

/-- Settles O6: the step looks at the list of waiting words first, then at the decoder's result. -/
theorem stepRunsTheDecodedCommand : Obligations.StepRunsTheDecodedCommand := by
  unfold Obligations.StepRunsTheDecodedCommand
  refine ⟨fun s w rest i hs hw => step_of_decode_ok hs hw, fun s hs => ?_⟩
  unfold step
  rw [hs]

theorem RunsTo.cons {s u t : State} {i : Instr} {rest : List CommandWord} {k : Nat} (hs : s.cmds = encode i :: rest)
    (first : exec i (s.setCmds rest) = .next u) (others : RunsTo u k t) : RunsTo s (k + 1) t :=
  ⟨u, (step_of_encode hs).trans first, others⟩

theorem RunsTo.append {s u t : State} {m n : Nat} (h : RunsTo s m u) (h' : RunsTo u n t) : RunsTo s (m + n) t := by
  induction m generalizing s with
  | zero =>
    obtain rfl : s = u := h
    rwa [Nat.zero_add]
  | succ m ih =>
    obtain ⟨v, first, others⟩ := h
    rw [Nat.add_right_comm]
    exact ⟨v, first, ih others⟩

theorem RunsTo.single {s t : State} {i : Instr} {rest : List CommandWord} (hs : s.cmds = encode i :: rest)
    (only : exec i (s.setCmds rest) = .next t) : RunsTo s 1 t :=
  .cons hs only rfl

/-- One more word at the end of a run. -/
theorem RunsTo.concat {s u t : State} {i : Instr} {rest : List CommandWord} {k : Nat} (h : RunsTo s k u)
    (hu : u.cmds = encode i :: rest) (last : exec i (u.setCmds rest) = .next t) : RunsTo s (k + 1) t :=
  h.append (.single hu last)

/-! ### HashCore: the tail of an inverted hash, and streaming (40_hashcore.md R106, R109) -/

/-- Settles O15: the equivalence of R106, read at what the trailing mix gives. -/
theorem invertedHashIsLeadHashXorTail : Obligations.InvertedHashIsLeadHashXorTail := by
  unfold Obligations.InvertedHashIsLeadHashXorTail
  refine fun c hc => ⟨fun g t => ((finalize_absorb_eq_iff hc).1 rfl).symm, fun x tail hx htail => ?_⟩
  rw [forwardHash_key c hx htail]
  exact ((finalize_absorb_eq_iff hc).1 rfl).symm

/-- What the accumulator holds after one chunk word (R98, R101). -/
def absorbWord (c : Params) (h k : Word) : Word := absorb c h (chunkMix c k)

/-- The loop of R101 absorbs the words of its chunks, one after the other. -/
theorem absorbChunks_eq_foldl (c : Params) (q : Nat) (h : Word) (b : List Byte) :
    absorbChunks c q h b = ((List.range q).map fun i => le64 ((b.drop (8 * i)).take 8)).foldl (absorbWord c) h := by
  induction q generalizing h b with
  | zero => rfl
  | succ q ih =>
    rw [absorbChunks, ih, List.range_succ_eq_map, List.map_cons, List.foldl_cons, List.map_map]
    have later : ((fun i => le64 ((b.drop (8 * i)).take 8)) ∘ Nat.succ) = fun i => le64 (((b.drop 8).drop (8 * i)).take 8) := by
      funext i
      rw [Function.comp_apply, List.drop_drop, Nat.mul_succ, Nat.add_comm]
    rw [later]
    rfl

/-- The hash of the full chunks is what streaming their words leaves (R109). -/
theorem foldl_chunkWords (c : Params) (b : List Byte) (total : Word) :
    (chunkWords b).foldl (absorbWord c) (hashInit c total) =
      partialForwardHash c (b.take (8 * (b.length / 8))) total := by
  rw [partialForwardHash_fullChunks, absorbChunks_eq_foldl]
  rfl

/-- `t` is `s` with a valid accumulator of value `v` and the words `ws` waiting, whatever it has answered. -/
def Accumulated (s : State) (v : Word) (ws : List CommandWord) (t : State) : Prop :=
  t = { s with h := v, hv := true, cmds := ws, rsps := t.rsps }

/-- The command takes the accumulator to `f` of it and answers that (R111 to R114). -/
def UpdatesBy (i : Instr) (f : Params → Word → Word) : Prop :=
  ∀ s : State, s.fault = false → s.hv = true → exec i s = .next (updateHash s (f s.cfg s.h))

theorem updatesBy_hchunk (k : Word) : UpdatesBy (.hchunk k) fun c h => absorbWord c h k :=
  fun _ clear valid => (exec_hchunk clear k).trans (congrArg _ (requireHash_of_valid valid _))

theorem updatesBy_htail (w : Word) : UpdatesBy (.htail w) fun c h => absorb c h w :=
  fun _ clear valid => (exec_htail clear w).trans (congrArg _ (requireHash_of_valid valid _))

theorem updatesBy_hfin : UpdatesBy .hfin finalize :=
  fun _ clear valid => (exec_hfin clear).trans (congrArg _ (requireHash_of_valid valid _))

/-- `HREAD` answers the accumulator and leaves it. -/
theorem updatesBy_hread : UpdatesBy .hread fun _ h => h :=
  fun _ clear valid => (exec_hread clear).trans (congrArg _ (requireHash_of_valid valid _))

section
variable {s t : State} {v : Word} {rest : List CommandWord} (clear : s.fault = false)
include clear

theorem runsTo_of_updatesBy {i : Instr} {f : Params → Word → Word} (hi : UpdatesBy i f)
    (h : Accumulated s v (encode i :: rest) t) :
    ∃ u, RunsTo t 1 u ∧ Accumulated s (f s.cfg v) rest u ∧ u.rsps.head? = some (rsp .ok (f s.cfg v)) := by
  rw [h]
  exact ⟨_, .single rfl (hi _ clear rfl), rfl, rfl⟩

/-- Chunk words are absorbed one after the other. -/
theorem runsTo_hchunks (ks : List Word) (h : Accumulated s v (ks.map (fun k => encode (.hchunk k)) ++ rest) t) :
    ∃ u, RunsTo t ks.length u ∧ Accumulated s (ks.foldl (absorbWord s.cfg) v) rest u := by
  induction ks generalizing v t with
  | nil => exact ⟨t, rfl, h⟩
  | cons k ks ih =>
    obtain ⟨u, first, hu, -⟩ := runsTo_of_updatesBy clear (updatesBy_hchunk k) h
    obtain ⟨w, others, hw⟩ := ih hu
    refine ⟨w, ?_, hw⟩
    rw [List.length_cons, Nat.add_comm]
    exact first.append others

/-- The tail word, if there is one, then `HFIN`: the forward hash of a message whose full chunks are absorbed. -/
theorem runsTo_finish (b : List Byte) (finish : List CommandWord)
    (hfinish : finish = (if b.length % 8 = 0 then [] else [encode (.htail (packTail (tailBytes b)))]) ++ [encode .hfin])
    (h : Accumulated s (partialForwardHash s.cfg (b.take (8 * (b.length / 8))) (BitVec.ofNat 64 b.length)) (finish ++ rest) t) :
    ∃ u, RunsTo t finish.length u ∧ Accumulated s (forwardHash s.cfg b) rest u ∧
      u.rsps.head? = some (rsp .ok (forwardHash s.cfg b)) := by
  subst hfinish
  by_cases whole : b.length % 8 = 0
  · rw [if_pos whole] at h ⊢
    rw [forwardHash_of_no_tail _ whole]
    exact runsTo_of_updatesBy clear updatesBy_hfin h
  · rw [if_neg whole] at h ⊢
    rw [forwardHash_of_tail _ (Nat.pos_of_ne_zero whole)]
    obtain ⟨u, first, hu, -⟩ := runsTo_of_updatesBy clear (updatesBy_htail _) h
    obtain ⟨w, last, hw⟩ := runsTo_of_updatesBy clear updatesBy_hfin hu
    exact ⟨w, first.append last, hw⟩

/-- `HINIT` and the chunk words: the hash of the full chunks. -/
theorem runsTo_hold (b : List Byte)
    (hs : s.cmds = encode (.hinit (BitVec.ofNat 64 b.length)) :: (chunkWords b).map (fun k => encode (.hchunk k)) ++ rest) :
    ∃ u, RunsTo s ((chunkWords b).length + 1) u ∧
      Accumulated s (partialForwardHash s.cfg (b.take (8 * (b.length / 8))) (BitVec.ofNat 64 b.length)) rest u := by
  have seeded := RunsTo.single hs (exec_hinit (by exact clear) _)
  have valid : Accumulated s (hashInit s.cfg (BitVec.ofNat 64 b.length)) (s.cmds.drop 1)
      (((s.setCmds (s.cmds.drop 1)).setHash (hashInit s.cfg (BitVec.ofNat 64 b.length)) true).answer .ok 0) := rfl
  rw [hs] at valid
  obtain ⟨u, chunks, hu⟩ := runsTo_hchunks clear (chunkWords b) valid
  rw [foldl_chunkWords] at hu
  rw [Nat.add_comm]
  exact ⟨u, seeded.append chunks, hu⟩

end

/-- Settles O18: `HINIT` seeds, each chunk word is one turn of the loop of R101, and the ending is that of R108, or `HREAD`. -/
theorem streamingComputesTheForwardHash : Obligations.StreamingComputesTheForwardHash := by
  unfold Obligations.StreamingComputesTheForwardHash
  intro s b rest clear hold finish
  have length_hold : hold.length = (chunkWords b).length + 1 := by simp [hold]
  refine ⟨fun hs => ?_, fun hs => ?_⟩
  · rw [List.append_assoc] at hs
    obtain ⟨u, first, hu⟩ := runsTo_hold clear b hs
    obtain ⟨t, last, ht, answer⟩ := runsTo_finish clear b finish rfl hu
    refine ⟨t, ?_, ht, answer⟩
    rw [List.length_append, length_hold]
    exact first.append last
  · rw [List.append_assoc] at hs
    obtain ⟨u, first, hu⟩ := runsTo_hold clear b hs
    obtain ⟨t, last, ht, answer⟩ := runsTo_of_updatesBy clear updatesBy_hread hu
    refine ⟨t, ?_, ht, answer⟩
    rw [length_hold]
    exact first.append last

/-! ### The message buffer: a word stored and read back (20_memory.md section 2) -/

/-- The word stored at an address is the word read there. -/
theorem memRead8_memWrite8 {s : State} (h : Memory.wf s.msg = true) (a : Nat) (v : Word) :
    memRead8 (memWrite8 s a v) a = v := by
  refine word_ext fun j hj => ?_
  have inside : a ≤ a + j ∧ a + j < a + 8 := by omega
  rw [byteAt_memRead8 _ _ hj, memWrite8_read h, if_pos inside, Nat.add_sub_cancel_left]

section
variable {s : State} {addr : BitVec 32} {ws : List CommandWord} (clear : s.fault = false)
  (fits : addr.toNat + 8 ≤ s.cfg.msgCap.toNat)
include clear fits

/-- Storing a word at an address: `MSETA`, then `MWR64`. -/
theorem runsTo_store {data : Word} (hs : s.cmds = encode (.mseta addr) :: encode (.mwr64 data) :: ws) :
    RunsTo s 2 { memWrite8 s addr.toNat data with
      ma := addr + 8, cmds := ws, rsps := rsp .ok 0 :: rsp .ok 0 :: s.rsps } :=
  .concat (u := ((s.setCmds (encode (.mwr64 data) :: ws)).setMa addr).answer .ok 0)
    (.single hs (exec_mseta_of_lt (by exact clear) (by exact (Nat.lt_add_of_pos_right (by decide)).trans_le fits))) rfl
    (exec_mwr64_of_le (by exact clear) data (by exact fits))

/-- Loading a word from an address: `MSETA`, then `MRD64`. -/
theorem runsTo_load (hs : s.cmds = encode (.mseta addr) :: encode .mrd64 :: ws) :
    RunsTo s 2 { s with
      ma := addr + 8, cmds := ws, rsps := rsp .ok (memRead8 s addr.toNat) :: rsp .ok 0 :: s.rsps } :=
  .concat (u := ((s.setCmds (encode .mrd64 :: ws)).setMa addr).answer .ok 0)
    (.single hs (exec_mseta_of_lt (by exact clear) (by exact (Nat.lt_add_of_pos_right (by decide)).trans_le fits))) rfl
    (exec_mrd64_of_le (by exact clear) (by exact fits))

end

/-- Settles O28: the store and the load name the same address, and the store changes no byte outside the word. -/
theorem storedWordIsReadBack : Obligations.StoredWordIsReadBack := by
  unfold Obligations.StoredWordIsReadBack
  intro addr data s clear hwf fits hs
  have stored := runsTo_store clear fits hs
  refine ⟨_, stored.append (runsTo_load (by exact clear) (by exact fits) rfl), ?_, ?_, fun a outside => ?_⟩
  · exact congrArg (fun w => some (rsp .ok w)) (memRead8_memWrite8 hwf addr.toNat data)
  · exact BitVec.toNat_add_of_lt (fits.trans_lt s.cfg.msgCap.isLt)
  · exact (memWrite8_read hwf addr.toNat a data).trans (if_neg (by omega))

/-! ### The alphabet in order (42_alphabet.md R140, R144) -/

/-- R140 in numbers. -/
theorem alpha_eq_ofNat {i : BitVec 7} (h : i.toNat < 94) :
    alpha i = BitVec.ofNat 8 (if i.toNat ≤ 59 then 32 + i.toNat else 33 + i.toNat) := by
  have low : Config.alphaLo.toNat = 32 := rfl
  have high : (Config.alphaLo + 1).toNat = 33 := rfl
  unfold alpha
  rw [if_pos (show i.toNat < Config.alphaCount from h)]
  split <;> bv_omega

theorem zext64_alpha {i : BitVec 7} (h : i.toNat < 94) :
    zext64 (alpha i) = BitVec.ofNat 64 (if i.toNat ≤ 59 then 32 + i.toNat else 33 + i.toNat) := by
  rw [alpha_eq_ofNat h, zext64]
  split <;> bv_omega

/-- The ascending alphabet is `Alpha` at 0 to 93. -/
theorem alphabet_eq_map_alpha : alphabet = (List.range 94).map fun k => alpha (BitVec.ofNat 7 k) := by decide

section
variable {s : State} (clear : s.fault = false)
include clear

/-- At the end of the alphabet `ANEXT` raises `E_END` and the cursor stays. -/
theorem exec_anext_of_ge (hac : 94 ≤ s.ac.toNat) : exec .anext s = .next (s.raise .eEnd) :=
  (complete_unlessFaulted clear _).trans (congrArg _ (if_pos hac))

end

/-- `s` after `k` commands `ANEXT` from the start of the alphabet, with the words `ws` still to come. -/
def State.afterAnext (s : State) (k : Nat) (ws : List CommandWord) : State :=
  { s with
    ac := BitVec.ofNat 7 k, cmds := ws
    rsps := ((List.range k).map fun j => rsp .ok (zext64 (alpha (BitVec.ofNat 7 j)))).reverse ++ s.rsps }

theorem exec_anext_afterAnext {s : State} (clear : s.fault = false) {k : Nat} (hk : k < 94) (ws : List CommandWord) :
    exec .anext (s.afterAnext k ws) = .next (s.afterAnext (k + 1) ws) := by
  have cursor : (s.afterAnext k ws).ac.toNat = k := Nat.mod_eq_of_lt (by omega)
  have clear' : (s.afterAnext k ws).fault = false := clear
  rw [exec_anext_of_lt clear' (cursor.trans_lt hk)]
  simp only [State.afterAnext, List.range_succ, List.map_append, List.reverse_append]
  rw [BitVec.ofNat_add]
  rfl

/-- From the start of the alphabet `k` commands `ANEXT` answer its first `k` bytes, in order. -/
theorem runsTo_anext {s : State} (clear : s.fault = false) (start : s.ac = 0) {k : Nat} (hk : k ≤ 94)
    {ws : List CommandWord} (hs : s.cmds = List.replicate k (encode .anext) ++ ws) : RunsTo s k (s.afterAnext k ws) := by
  induction k generalizing ws with
  | zero =>
    obtain rfl : s.cmds = ws := hs
    exact (congrArg (fun a => { s with ac := a }) start : s = s.afterAnext 0 s.cmds)
  | succ k ih =>
    rw [List.replicate_succ', List.append_assoc] at hs
    exact (ih (by omega) hs).concat rfl (exec_anext_afterAnext clear (by omega) ws)

/-- Settles O31: `ARST` puts the cursor at the start, from where `ANEXT` walks through the alphabet to its end. -/
theorem alphabetIsDeliveredInOrderThenEnds : Obligations.AlphabetIsDeliveredInOrderThenEnds := by
  unfold Obligations.AlphabetIsDeliveredInOrderThenEnds
  intro s rest clear hs
  have split : List.replicate 95 (encode .anext) ++ rest = List.replicate 94 (encode .anext) ++ encode .anext :: rest := rfl
  rw [List.cons_append, split] at hs
  have started := RunsTo.single hs (by exact exec_arst clear)
  have walked := started.append (runsTo_anext (k := 94) (ws := encode .anext :: rest) (by exact clear) rfl le_rfl rfl)
  refine (congrArg (RunsTo s 96) ?_).mp (walked.concat rfl (by exact exec_anext_of_ge clear le_rfl))
  rw [alphabet_eq_map_alpha, List.map_map]
  rfl

/-- Settles O30: `ANEXT` tests the latch and the end of the alphabet, and its answer is R140 in numbers. -/
theorem anextAnswersTheNextAlphabetByte : Obligations.AnextAnswersTheNextAlphabetByte := by
  unfold Obligations.AnextAnswersTheNextAlphabetByte
  refine fun s clear => ⟨rfl, exec_anext_of_ge clear, fun hac => ?_⟩
  rw [exec_anext_of_lt clear hac, zext64_alpha hac]
  have moved : s.ac + 1 = BitVec.ofNat 7 (s.ac.toNat + 1) := by
    bv_omega
  rw [moved]
  rfl

/-! ### Reading out the result FIFO (45_results.md R203) -/

/-- The host's words for one record. -/
def readRecord : List CommandWord := [encode (.rrd 0), encode (.rrd 1), encode (.rrd 2), encode .rpop]

/-- What these words are answered. -/
def recordAnswers (r : Record) : List ResponseWord :=
  [rsp .ok r.hash, rsp .ok (le64 (r.key.take 8)), rsp .ok (le64 (r.key.drop 8)), rsp .ok 0]

section
variable {s : State} {ws : List CommandWord} (clear : s.fault = false) (nonempty : s.rn ≠ 0)
include clear nonempty

theorem runsTo_rrd {r : Record} {rest : List Record} (hres : s.res = r :: rest) {sel : BitVec 2} (hsel : sel ≠ 3)
    (hs : s.cmds = encode (.rrd sel) :: ws) :
    RunsTo s 1 { s with cmds := ws, rsps := rsp .ok (r.select sel.toNat) :: s.rsps } :=
  .single hs (exec_rrd_of_cons (s := s.setCmds ws) clear nonempty hres hsel)

theorem runsTo_rpop (hs : s.cmds = encode .rpop :: ws) :
    RunsTo s 1 { s.popped with cmds := ws, rsps := rsp .ok 0 :: s.rsps } :=
  .single hs (exec_rpop_of_nonempty (s := s.setCmds ws) clear nonempty)

/-- One turn of the loop delivers the head record and removes it. -/
theorem runsTo_readRecord {r : Record} {rest : List Record} (hres : s.res = r :: rest) (hs : s.cmds = readRecord ++ ws) :
    RunsTo s 4 { s.popped with cmds := ws, rsps := (recordAnswers r).reverse ++ s.rsps } := by
  have first := runsTo_rrd clear nonempty hres (sel := 0) (by decide) hs
  have second := first.append (runsTo_rrd (by exact clear) (by exact nonempty) (by exact hres) (sel := 1) (by decide) rfl)
  have third := second.append (runsTo_rrd (by exact clear) (by exact nonempty) (by exact hres) (sel := 2) (by decide) rfl)
  exact third.append (runsTo_rpop (by exact clear) (by exact nonempty) rfl)

end

theorem State.records_of_cons {s : State} {r : Record} {rest : List Record} (nonempty : s.rn ≠ 0) (hres : s.res = r :: rest) :
    s.records = r :: s.records.tail := by
  obtain ⟨n, hn⟩ : ∃ n, s.rn.toNat = n + 1 := Nat.exists_eq_succ_of_ne_zero fun h => nonempty (BitVec.eq_of_toNat_eq h)
  rw [State.records, hn, hres]
  rfl

/-- The loop over all records, by the number of records that are left. -/
theorem runsTo_readRecords {n : Nat} {s : State} {ws : List CommandWord} (clear : s.fault = false) (hn : s.rn.toNat = n)
    (fits : s.rn.toNat ≤ s.res.length) (hs : s.cmds = (List.replicate n readRecord).flatten ++ ws) :
    ∃ t, RunsTo s (4 * n) t ∧ t = { s with res := t.res, rn := 0, cmds := ws, rsps := t.rsps } ∧
      t.rsps = (s.records.flatMap recordAnswers).reverse ++ s.rsps := by
  induction n generalizing s with
  | zero =>
    have empty : s.rn = 0 := BitVec.eq_of_toNat_eq hn
    obtain rfl : s.cmds = ws := hs
    refine ⟨s, rfl, ?_, ?_⟩
    · rw [← empty]
    · simp [State.records, empty]
  | succ n ih =>
    have nonempty : s.rn ≠ 0 := fun empty => by simp [empty] at hn
    have fewer : (s.rn - 1).toNat = n := by bv_omega
    rw [List.replicate_succ, List.flatten_cons, List.append_assoc] at hs
    cases hres : s.res with
    | nil => simp [hres, hn] at fits
    | cons r rest =>
      have turn := runsTo_readRecord clear nonempty hres hs
      have shifted : s.popped.res.length = s.res.length := length_shiftRecords (by omega) fits
      have left : s.popped.records = s.records.tail := State.popped_records nonempty fits
      obtain ⟨t, others, ht, answers⟩ := ih
        (s := { s.popped with cmds := _, rsps := (recordAnswers r).reverse ++ s.rsps }) clear fewer
        (by show (s.rn - 1).toNat ≤ s.popped.res.length; omega) rfl
      refine ⟨t, ?_, ht, ?_⟩
      · rw [Nat.mul_succ, Nat.add_comm]
        exact turn.append others
      · have held : s.records = r :: s.popped.records := by
          rw [left]
          exact State.records_of_cons nonempty hres
        rw [answers, held, List.flatMap_cons, List.reverse_append, List.append_assoc]
        rfl

/-- Settles O51: the loop, with the words and the answers of one turn named. -/
theorem readingOutDeliversEveryRecordInOrder : Obligations.ReadingOutDeliversEveryRecordInOrder := by
  unfold Obligations.ReadingOutDeliversEveryRecordInOrder
  exact fun s rest clear fits hs => runsTo_readRecords clear rfl fits hs

/-! ### Three orders of tests, and the whole of `RESET` (60_exceptions.md R231; 46_system.md R212) -/

/-- Settles O13: `PHASH` and `RRD` test their operand first, and `TINS` tests for a search before it looks at the store. -/
theorem orderOfErrorsDecidesThreeCases : Obligations.OrderOfErrorsDecidesThreeCases := by
  unfold Obligations.OrderOfErrorsDecidesThreeCases
  exact ⟨fun n total s clear precond _ => exec_phash_of_precond clear precond, fun s clear _ => exec_rrd_three clear,
    fun hash s clear running _ _ => exec_tins_of_running clear running hash⟩

/-- Settles O54: `RESET` passes no test, and the reset state is written out field by field. -/
theorem resetGivesEveryElementItsResetValue : Obligations.ResetGivesEveryElementItsResetValue := by
  unfold Obligations.ResetGivesEveryElementItsResetValue
  exact fun s => ⟨rfl, exec_reset s⟩

end Sys2Proof.Machine
end

/-! ### The search, step by step (44_searcher.md R177, R180)

The loop of `SRUN` is said once as a relation: the states that completed steps lead to, and the two ways the loop can end. What a
whole `SRUN` does follows by induction over the completed steps. -/

section
namespace Sys2Proof.Machine

/-- The state after a completed search step. -/
def State.advance (s : State) : State := (s.applyMatch s.matchStep).endStep

/-- `u` is reached from `s` by `k` completed steps of a search in progress. -/
inductive Searched (s : State) : Nat → State → Prop where
  | start : Searched s 0 s
  | step {k : Nat} {u : State} (before : Searched s k u) (running : u.run = true)
      (passed : u.matchStep.violated = false) : Searched s (k + 1) u.advance

/-- The state, the status and the number of completed steps with which the loop of `SRUN` can end, if it may do `n` steps. -/
inductive LoopEnds (s : State) (n : Nat) : State → Status → Nat → Prop where
  /-- All steps are done, or the search has ended (R176). -/
  | completed {k : Nat} {u : State} (reached : Searched s k u) (le : k ≤ n) (ended : k < n → u.run = false) :
      LoopEnds s n u .ok k
  /-- The consistency check has failed (R175). -/
  | violated {k : Nat} {u : State} (reached : Searched s k u) (lt : k < n) (running : u.run = true)
      (failed : u.matchStep.violated = true) : LoopEnds s n (u.applyMatch u.matchStep).latchFault .eConsist k

theorem searchStep_of_passed {s : State} (passed : s.matchStep.violated = false) : searchStep s = .done s.advance := by
  obtain ⟨failed, -⟩ | ⟨-, e⟩ := searchStep_cases s
  · cases passed.symm.trans failed
  · exact e

theorem searchStep_of_failed {s : State} (failed : s.matchStep.violated = true) :
    searchStep s = .violation (s.applyMatch s.matchStep).latchFault := by
  obtain ⟨-, e⟩ | ⟨passed, -⟩ := searchStep_cases s
  · exact e
  · cases passed.symm.trans failed

/-! The three ends of a step (R176), each from its own test. -/

section
variable {s : State}

theorem endStep_of_none (none : s.pendingCount = 0) : s.endStep = (s.setPcnt (s.pcnt + 1)).setSearchFlags false true s.fx :=
  if_pos none

theorem endStep_of_last (some : s.pendingCount ≠ 0) (last : s.dig.next? = none) :
    s.endStep = (s.setPcnt (s.pcnt + 1)).setSearchFlags false s.fe true := by
  refine (if_neg some).trans ?_
  rw [State.setPcnt_dig, last]
  rfl

theorem endStep_of_next (some : s.pendingCount ≠ 0) {d : Odometer} (next : s.dig.next? = .some d) :
    s.endStep = (s.setPcnt (s.pcnt + 1)).setDig d := by
  refine (if_neg some).trans ?_
  rw [State.setPcnt_dig, next]

end

namespace Searched

variable {s u v : State} {k m : Nat}

theorem append (h : Searched s k u) (h' : Searched u m v) : Searched s (k + m) v := by
  induction h' with
  | start => exact h
  | step _ running passed ih => exact .step ih running passed

/-- What a completed step keeps holds of every state reached. -/
theorem preserves {P : State → Prop} (h : Searched s k u) (first : P s)
    (next : ∀ v, P v → v.run = true → v.matchStep.violated = false → P v.advance) : P u := by
  induction h with
  | start => exact first
  | step _ running passed ih => exact next _ ih running passed

/-- The loop of `SRUN` does the completed steps first, and counts them. -/
theorem runSteps_eq (h : Searched s k u) (n : Nat) (c : Word) :
    runSteps (k + n) c s = runSteps n (c + BitVec.ofNat 64 k) u := by
  induction h generalizing n with
  | start =>
    rw [Nat.zero_add, show c + BitVec.ofNat 64 0 = c from BitVec.add_zero c]
  | @step k u _ running passed ih =>
    rw [Nat.succ_add_eq_add_succ, ih, runSteps_succ running, searchStep_of_passed passed, BitVec.ofNat_add,
      ← BitVec.add_assoc]
    rfl

end Searched

namespace LoopEnds

variable {s u v : State} {st : Status} {k m n : Nat}

theorem after (h : Searched s k u) (h' : LoopEnds u n v st m) : LoopEnds s (k + n) v st (k + m) := by
  cases h' with
  | completed reached le ended => exact .completed (h.append reached) (by omega) fun lt => ended (by omega)
  | violated reached lt running failed => exact .violated (h.append reached) (by omega) running failed

/-- The loop ends in one of these ways. -/
theorem exists_of (n : Nat) (s : State) : ∃ u st k, LoopEnds s n u st k := by
  induction n generalizing s with
  | zero => exact ⟨s, .ok, 0, .completed .start le_rfl fun lt => absurd lt (Nat.lt_irrefl 0)⟩
  | succ n ih =>
    cases running : s.run with
    | false => exact ⟨s, .ok, 0, .completed .start (Nat.zero_le _) fun _ => running⟩
    | true =>
      cases check : s.matchStep.violated with
      | true => exact ⟨_, _, 0, .violated .start (Nat.succ_pos n) running check⟩
      | false =>
        obtain ⟨u, st, k, ends⟩ := ih s.advance
        have one : Searched s 1 s.advance := .step .start running check
        exact ⟨u, st, 1 + k, Nat.add_comm 1 n ▸ ends.after one⟩

/-- Once the search has ended, more steps change nothing. -/
theorem more (h : LoopEnds s n u st k) (le : n ≤ m) (ended : u.run = false) : LoopEnds s m u st k := by
  cases h with
  | completed reached le' _ => exact .completed reached (le'.trans le) fun _ => ended
  | violated reached lt running failed => exact .violated reached (lt.trans_le le) running failed

/-- The answer of the loop says how it has ended. -/
theorem runSteps_eq (h : LoopEnds s n u st k) (c : Word) : runSteps n c s = u.answer st (c + BitVec.ofNat 64 k) := by
  cases h with
  | completed reached le ended =>
    obtain ⟨m, rfl⟩ := Nat.exists_eq_add_of_le le
    rw [reached.runSteps_eq]
    cases m with
    | zero => rfl
    | succ m => exact runSteps_ended (ended (by omega)) _ _
  | violated reached lt running failed =>
    obtain ⟨m, rfl⟩ := Nat.exists_eq_add_of_lt lt
    rw [Nat.add_assoc, reached.runSteps_eq, runSteps_succ running, searchStep_of_failed failed]

end LoopEnds

/-! #### What a search leaves alone (R177, R260) -/

/-- `u` is `s` but for the elements a completed search step writes. -/
def SearchFrame (s u : State) : Prop :=
  u = { s with
    tgt := u.tgt, dig := u.dig, run := u.run, fe := u.fe, fx := u.fx, pcnt := u.pcnt, res := u.res, rn := u.rn }

theorem SearchFrame.trans {s u v : State} (h : SearchFrame s u) (h' : SearchFrame u v) : SearchFrame s v := by
  unfold SearchFrame at h h' ⊢
  rw [h', h]

theorem searchFrame_applyMatch (s : State) (r : MatchResult) : SearchFrame s (s.applyMatch r) := by
  unfold SearchFrame
  rw [applyMatch_eq]
  rfl

theorem searchFrame_endStep (s : State) : SearchFrame s s.endStep := by
  obtain ⟨-, e⟩ | ⟨-, -, e⟩ | ⟨d, -, -, e⟩ := endStep_cases s <;> rw [e] <;> rfl

theorem searchFrame_advance (s : State) : SearchFrame s s.advance :=
  (searchFrame_applyMatch s _).trans (searchFrame_endStep _)

theorem Searched.frame {s u : State} {k : Nat} (h : Searched s k u) : SearchFrame s u :=
  h.preserves rfl fun v hv _ _ => hv.trans (searchFrame_advance v)

/-- `s` with every element that the search does not touch as `o` has it. -/
def State.besides (s o : State) : State :=
  { s with h := o.h, hv := o.hv, ma := o.ma, msg := o.msg, ac := o.ac, rsps := o.rsps }

theorem SearchFrame.besides_eq {s u : State} (h : SearchFrame s u) : u.besides s = u := by
  unfold SearchFrame at h
  rw [h]
  rfl

theorem appendRecords_besides (rs : List Record) (s o : State) :
    rs.foldl State.appendRecord (s.besides o) = (rs.foldl State.appendRecord s).besides o := by
  induction rs generalizing s with
  | nil => rfl
  | cons r rs ih => exact ih (s.appendRecord r)

theorem applyMatch_besides (s o : State) (r : MatchResult) : (s.besides o).applyMatch r = (s.applyMatch r).besides o :=
  appendRecords_besides r.records (s.setTargets (r.slots ++ s.tgt.drop s.tn.toNat) s.tn) o

theorem endStep_besides (s o : State) : (s.besides o).endStep = s.endStep.besides o := by
  by_cases none : s.pendingCount = 0
  · rw [endStep_of_none none, endStep_of_none (s := s.besides o) none]
    rfl
  · cases next : s.dig.next? with
    | none =>
      rw [endStep_of_last none next, endStep_of_last (s := s.besides o) none next]
      rfl
    | some d =>
      rw [endStep_of_next none next, endStep_of_next (s := s.besides o) none next]
      rfl

theorem advance_besides (s o : State) : (s.besides o).advance = s.advance.besides o := by
  unfold State.advance
  rw [← endStep_besides, ← applyMatch_besides]
  rfl

theorem Searched.besides {s u : State} {k : Nat} (h : Searched s k u) (o : State) :
    Searched (s.besides o) k (u.besides o) := by
  induction h with
  | start => exact .start
  | step _ running passed ih =>
    rw [← advance_besides]
    exact .step ih running passed

/-- The search does not read the other elements: from a state that differs in them it ends alike. -/
theorem LoopEnds.besides {s u : State} {st : Status} {n k : Nat} (h : LoopEnds s n u st k) (o : State) :
    LoopEnds (s.besides o) n (u.besides o) st k := by
  cases h with
  | completed reached le ended => exact .completed (reached.besides o) le ended
  | @violated k v reached lt running failed =>
    have latched : ((v.applyMatch v.matchStep).latchFault).besides o =
        ((v.besides o).applyMatch (v.besides o).matchStep).latchFault := by
      rw [applyMatch_besides]
      rfl
    rw [latched]
    exact .violated (reached.besides o) lt running failed

/-! #### What a search does to the slots and to the flags, from any state -/

/-- The match resolves slots and does nothing else to the store (R174). -/
theorem slotAdvances_applyMatch (s : State) (j : Nat) : SlotAdvances s.tgt[j]? (s.applyMatch s.matchStep).tgt[j]? := by
  have same : s.matchStep.slots.length = s.allocated.length := matchSlots_slots_length _ _ _ _
  have before : s.tgt[j]? = (s.allocated ++ s.tgt.drop s.tn.toNat)[j]? := by rw [State.allocated, List.take_append_drop]
  rw [before, applyMatch_tgt, List.getElem?_append, List.getElem?_append, same]
  split
  · exact matchSlots_slots_advance _ _ _ _ j
  · exact .same _

theorem endStep_tgt (s : State) : s.endStep.tgt = s.tgt := by
  obtain ⟨-, e⟩ | ⟨-, -, e⟩ | ⟨d, -, -, e⟩ := endStep_cases s <;> rw [e] <;> rfl

theorem slotAdvances_advance (s : State) (j : Nat) : SlotAdvances s.tgt[j]? s.advance.tgt[j]? := by
  rw [State.advance, endStep_tgt]
  exact slotAdvances_applyMatch s j

theorem Searched.slots {s u : State} {k : Nat} (h : Searched s k u) (j : Nat) : SlotAdvances s.tgt[j]? u.tgt[j]? :=
  h.preserves (P := fun u => SlotAdvances s.tgt[j]? u.tgt[j]?) (.same _) fun v hv _ _ => hv.trans (slotAdvances_advance v j)

theorem LoopEnds.slots {s u : State} {st : Status} {n k : Nat} (h : LoopEnds s n u st k) (j : Nat) :
    SlotAdvances s.tgt[j]? u.tgt[j]? := by
  cases h with
  | completed reached => exact reached.slots j
  | violated reached => exact (reached.slots j).trans (slotAdvances_applyMatch _ j)

/-- However the loop ends, it has written what a search step writes, and the latch. -/
theorem LoopEnds.frame {s u : State} {st : Status} {n k : Nat} (h : LoopEnds s n u st k) :
    SearchFrame { s with fault := u.fault } u := by
  cases h with
  | completed reached =>
    have frame := reached.frame
    unfold SearchFrame at frame ⊢
    rw [frame]
  | @violated k v reached =>
    have frame := reached.frame.trans (searchFrame_applyMatch v v.matchStep)
    unfold SearchFrame at frame ⊢
    rw [frame]
    rfl

/-- What a search in progress can have done to the flags (R23): it ends with nothing pending under `FE` or with something pending
under `FX`, and never clears these two. -/
structure FlagsAdvance (s u : State) : Prop where
  fe_kept : s.fe = true → u.fe = true
  fx_kept : s.fx = true → u.fx = true
  fe_set : s.fe = false → u.fe = true → u.pendingCount = 0 ∧ u.run = false
  fx_set : s.fx = false → u.fx = true → 0 < u.pendingCount ∧ u.run = false

theorem FlagsAdvance.of_same {s u : State} (fe : u.fe = s.fe) (fx : u.fx = s.fx) : FlagsAdvance s u where
  fe_kept h := fe.trans h
  fx_kept h := fx.trans h
  fe_set h h' := absurd (h.symm.trans (fe.symm.trans h')) (by decide)
  fx_set h h' := absurd (h.symm.trans (fx.symm.trans h')) (by decide)

theorem flagsAdvance_endStep (s : State) : FlagsAdvance s s.endStep := by
  obtain ⟨none, e⟩ | ⟨some, -, e⟩ | ⟨d, -, -, e⟩ := endStep_cases s <;> rw [e]
  · exact ⟨fun _ => rfl, id, fun _ _ => ⟨none, rfl⟩, fun h h' => absurd (h.symm.trans h') (by decide)⟩
  · exact ⟨id, fun _ => rfl, fun h h' => absurd (h.symm.trans h') (by decide), fun _ _ => ⟨some, rfl⟩⟩
  · exact .of_same rfl rfl

theorem flagsAdvance_applyMatch (s : State) (r : MatchResult) : FlagsAdvance s (s.applyMatch r) := by
  rw [applyMatch_eq]
  exact .of_same rfl rfl

/-- While the search goes on neither flag can have been set, so that what a later step sets is all there is. -/
theorem FlagsAdvance.trans {s u v : State} (h : FlagsAdvance s u) (running : u.run = true) (h' : FlagsAdvance u v) :
    FlagsAdvance s v where
  fe_kept := h'.fe_kept ∘ h.fe_kept
  fx_kept := h'.fx_kept ∘ h.fx_kept
  fe_set clear := h'.fe_set (Bool.eq_false_iff.2 fun set => absurd (running.symm.trans (h.fe_set clear set).2) (by decide))
  fx_set clear := h'.fx_set (Bool.eq_false_iff.2 fun set => absurd (running.symm.trans (h.fx_set clear set).2) (by decide))

theorem applyMatch_run (s : State) (r : MatchResult) : (s.applyMatch r).run = s.run := by
  rw [applyMatch_eq]
  rfl

theorem flagsAdvance_advance {s : State} (running : s.run = true) : FlagsAdvance s s.advance :=
  (flagsAdvance_applyMatch s _).trans ((applyMatch_run s _).trans running) (flagsAdvance_endStep _)

theorem Searched.flags {s u : State} {k : Nat} (h : Searched s k u) : FlagsAdvance s u :=
  h.preserves (.of_same rfl rfl) fun _ hv running _ => hv.trans running (flagsAdvance_advance running)

theorem LoopEnds.flags {s u : State} {st : Status} {n k : Nat} (h : LoopEnds s n u st k) : FlagsAdvance s u := by
  cases h with
  | completed reached => exact reached.flags
  | @violated k v reached _ running =>
    have matched := reached.flags.trans running (flagsAdvance_applyMatch v v.matchStep)
    exact matched.trans ((applyMatch_run v _).trans running) (.of_same rfl rfl)

theorem Searched.fault {s u : State} {k : Nat} (h : Searched s k u) : u.fault = s.fault :=
  (congrArg State.fault h.frame).trans rfl

/-- The loop ends under `OK` with the latch as it was, or under `E_CONSIST` with the latch set and the search ended (R229). -/
theorem LoopEnds.status {s u : State} {st : Status} {n k : Nat} (h : LoopEnds s n u st k) :
    (st = .ok ∧ u.fault = s.fault) ∨ (st = .eConsist ∧ u.fault = true ∧ u.run = false) := by
  cases h with
  | completed reached => exact .inl ⟨rfl, reached.fault⟩
  | violated => exact .inr ⟨rfl, rfl, rfl⟩

/-! ### What each command does (section 4 of 40_hashcore.md, and 41 to 46)

Said once for all 28 commands: the state a command ends in before it answers, its status and its datum. The tests are those that
stand before the command; a datum that no rule about the whole machine looks at is left open. -/

/-- The command `i`, executed in `s`, ends in the state with the status and the datum, apart from the response itself. -/
inductive Effect (s : State) : Instr → State → Status → Word → Prop where
  /-- The test of the fault latch (60_exceptions.md R224). -/
  | refused {i : Instr} (latched : s.fault = true) (hnop : i ≠ .nop) (hreset : i ≠ .reset) (hcrd : ∀ idx, i ≠ .crd idx) :
      Effect s i s .eFaulted 0
  /-- An error of the command's own row (R232), before anything is written (R222). -/
  | raised {i : Instr} {e : Status} (own : e ∈ ownErrors i) : Effect s i s e 0
  /-- Completion with nothing written. -/
  | answered {i : Instr} {d : Word} : Effect s i s .ok d
  | hinit {len v : Word} : Effect s (.hinit len) (s.setHash v true) .ok 0
  | hchunk {k v : Word} : Effect s (.hchunk k) (s.setHash v s.hv) .ok v
  | htail {w v : Word} : Effect s (.htail w) (s.setHash v s.hv) .ok v
  | hfin {v : Word} : Effect s .hfin (s.setHash v s.hv) .ok v
  | mseta {addr : BitVec 32} (below : addr.toNat < s.cfg.msgCap.toNat) : Effect s (.mseta addr) (s.setMa addr) .ok 0
  | mwr8 {b : Byte} (inside : s.ma.toNat + 1 ≤ s.cfg.msgCap.toNat) :
      Effect s (.mwr8 b) ((memWrite1 s s.ma.toNat b).advanceMa 1) .ok 0
  | mwr64 {data : Word} (inside : s.ma.toNat + 8 ≤ s.cfg.msgCap.toNat) :
      Effect s (.mwr64 data) ((memWrite8 s s.ma.toNat data).advanceMa 8) .ok 0
  | mrd8 {d : Word} (inside : s.ma.toNat + 1 ≤ s.cfg.msgCap.toNat) : Effect s .mrd8 (s.advanceMa 1) .ok d
  | mrd64 {d : Word} (inside : s.ma.toNat + 8 ≤ s.cfg.msgCap.toNat) : Effect s .mrd64 (s.advanceMa 8) .ok d
  | arst : Effect s .arst (s.setAc 0) .ok 0
  | anext {d : Word} (below : s.ac.toNat < 94) : Effect s .anext (s.setAc (s.ac + 1)) .ok d
  | tins {hash : Word} (idle : s.run = false) (new : s.knows hash = false) (room : s.tn ≠ s.cfg.tgtCap) :
      Effect s (.tins hash) (s.allocate hash) .ok 1
  | tclr (idle : s.run = false) :
      Effect s .tclr (((s.setTargets s.tgt 0).setResults s.res 0).setSearchFlags s.run false false) .ok 0
  | sstart (clear : s.fault = false) (idle : s.run = false) :
      Effect s .sstart ((((s.setDig Odometer.zero).setPcnt 0).setResults s.res 0).setSearchFlags
        (decide (0 < s.pendingCount)) (!decide (0 < s.pendingCount)) false) .ok s.pendingWord
  | srun {n : Word} {u : State} {st : Status} {k : Nat} (clear : s.fault = false) (running : s.run = true)
      (ends : LoopEnds s n.toNat u st k) : Effect s (.srun n) u st (BitVec.ofNat 64 k)
  | sstop (running : s.run = true) : Effect s .sstop (s.setSearchFlags false false false) .ok 0
  | rpop (nonempty : s.rn ≠ 0) : Effect s .rpop s.popped .ok 0
  | reset : Effect s .reset s.hardReset .ok 0

/-- The command has one of the effects listed for it. -/
def Performs (s : State) (i : Instr) : Prop := ∃ u st d, Effect s i u st d ∧ exec i s = .next (u.answer st d)

namespace Performs

variable {s : State} {i : Instr}

/-- A command that, by the law of its test, raises its own error or goes through. -/
theorem of_gate {raises passes : Prop} {e st : Status} {d : Word} {t u : State} (h : exec i s = .next t)
    (gate : (raises ∧ t = s.raise e) ∨ (passes ∧ t = u.answer st d)) (own : e ∈ ownErrors i)
    (eff : passes → Effect s i u st d) : Performs s i := by
  obtain ⟨-, rfl⟩ | ⟨passed, rfl⟩ := gate
  · exact ⟨_, _, _, .raised own, h⟩
  · exact ⟨_, _, _, eff passed, h⟩

theorem of_answered {d : Word} (h : exec i s = .next (s.answer .ok d)) : Performs s i := ⟨_, _, _, .answered, h⟩

theorem of_raised {e : Status} (h : exec i s = .next (s.raise e)) (own : e ∈ ownErrors i) : Performs s i :=
  ⟨_, _, _, .raised own, h⟩

end Performs

theorem exec_srun_of_running {s : State} (clear : s.fault = false) (running : s.run = true) (n : Word) :
    exec (.srun n) s = .next (runSteps n.toNat 0 s) :=
  complete_requireRun_of_running clear running _

/-- `SRUN` in a search is its loop. -/
theorem exec_srun_of_loopEnds {s u : State} {n : Word} {st : Status} {k : Nat} (clear : s.fault = false)
    (running : s.run = true) (ends : LoopEnds s n.toNat u st k) :
    exec (.srun n) s = .next (u.answer st (BitVec.ofNat 64 k)) := by
  rw [exec_srun_of_running clear running, ends.runSteps_eq]
  exact congrArg (fun d => Host.Outcome.next (u.answer st d)) (BitVec.zero_add _)

theorem performs_srun {s : State} (clear : s.fault = false) (n : Word) : Performs s (.srun n) := by
  cases running : s.run with
  | false => exact .of_raised (exec_srun_of_idle clear running n) (.head _)
  | true =>
    obtain ⟨u, st, k, ends⟩ := LoopEnds.exists_of n.toNat s
    exact ⟨_, _, _, .srun clear running ends, exec_srun_of_loopEnds clear running ends⟩

theorem performs_tins {s : State} (clear : s.fault = false) (hash : Word) : Performs s (.tins hash) := by
  cases idle : s.run with
  | true => exact .of_raised (exec_tins_of_running clear idle hash) (.head _)
  | false =>
    cases known : s.knows hash with
    | true => exact .of_answered (exec_tins_of_known clear idle known)
    | false =>
      by_cases full : s.tn = s.cfg.tgtCap
      · exact .of_raised (exec_tins_of_full clear idle known full) (.tail _ (.head _))
      · exact ⟨_, _, _, .tins idle known full, exec_tins_of_room clear idle known full⟩

theorem performs_rrd {s : State} (clear : s.fault = false) (sel : BitVec 2) : Performs s (.rrd sel) := by
  by_cases three : sel = 3
  · subst three
    exact .of_raised (exec_rrd_three clear) (.head _)
  · by_cases empty : s.rn = 0
    · exact .of_raised (exec_rrd_of_empty clear empty three) (.tail _ (.head _))
    · exact .of_answered ((exec_rrd_of_ne_three clear three).trans (congrArg _ (if_neg empty)))

theorem performs_phash {s : State} (clear : s.fault = false) (n total : BitVec 32) : Performs s (.phash n total) := by
  by_cases precond : n.toNat % 8 ≠ 0 ∨ total.toNat < n.toNat
  · exact .of_raised (exec_phash_of_precond clear precond) (.head _)
  · obtain ⟨h8, htotal⟩ : n.toNat % 8 = 0 ∧ n.toNat ≤ total.toNat := by omega
    by_cases beyond : s.cfg.msgCap.toNat < n.toNat
    · exact .of_raised (exec_phash_of_gt clear h8 htotal beyond) (.tail _ (.head _))
    · exact .of_answered (exec_phash_of_le clear h8 htotal (by omega))

/-- Each command, by the laws of the tests it makes. -/
theorem performs_of_clear {s : State} (clear : s.fault = false) (i : Instr) : Performs s i := by
  cases i with
  | nop => exact .of_answered (exec_nop s)
  | hinit len => exact ⟨_, _, _, .hinit, exec_hinit clear len⟩
  | hchunk k => exact .of_gate (exec_hchunk clear k) (requireHash_eq s _) (.head _) fun _ => .hchunk
  | htail w => exact .of_gate (exec_htail clear w) (requireHash_eq s _) (.head _) fun _ => .htail
  | hfin => exact .of_gate (exec_hfin clear) (requireHash_eq s _) (.head _) fun _ => .hfin
  | hread => exact .of_gate (exec_hread clear) (requireHash_eq s _) (.head _) fun _ => .answered
  | fhash n =>
    obtain beyond | inside := Nat.lt_or_ge s.cfg.msgCap.toNat n.toNat
    · exact .of_raised (exec_fhash_of_gt clear beyond) (.head _)
    · exact .of_answered (exec_fhash_of_le clear inside)
  | phash n total => exact performs_phash clear n total
  | invtm hash => exact .of_answered (exec_invtm clear hash)
  | mseta addr =>
    obtain below | beyond := Nat.lt_or_ge addr.toNat s.cfg.msgCap.toNat
    · exact ⟨_, _, _, .mseta below, exec_mseta_of_lt clear below⟩
    · exact .of_raised (exec_mseta_of_ge clear beyond) (.head _)
  | mwr8 b => exact .of_gate (complete_unlessFaulted clear _) (requireRange_eq s 1 _) (.head _) .mwr8
  | mwr64 data => exact .of_gate (complete_unlessFaulted clear _) (requireRange_eq s 8 _) (.head _) .mwr64
  | mrd8 => exact .of_gate (complete_unlessFaulted clear _) (requireRange_eq s 1 _) (.head _) .mrd8
  | mrd64 => exact .of_gate (complete_unlessFaulted clear _) (requireRange_eq s 8 _) (.head _) .mrd64
  | arst => exact ⟨_, _, _, .arst, exec_arst clear⟩
  | anext =>
    obtain below | atEnd := Nat.lt_or_ge s.ac.toNat 94
    · exact ⟨_, _, _, .anext below, exec_anext_of_lt clear below⟩
    · exact .of_raised (exec_anext_of_ge clear atEnd) (.head _)
  | achk b => exact .of_answered (exec_achk clear b)
  | tins hash => exact performs_tins clear hash
  | tsize => exact .of_answered (exec_tsize clear)
  | tclr => exact .of_gate (complete_unlessFaulted clear _) (requireIdle_eq s _) (.head _) .tclr
  | tprobe p => exact .of_answered (exec_tprobe clear p)
  | sstart => exact .of_gate (complete_unlessFaulted clear _) (requireIdle_eq s _) (.head _) (.sstart clear)
  | srun n => exact performs_srun clear n
  | sstop => exact .of_gate (complete_unlessFaulted clear _) (requireRun_eq s _) (.head _) .sstop
  | rrd sel => exact performs_rrd clear sel
  | rpop =>
    by_cases empty : s.rn = 0
    · exact .of_raised (exec_rpop_of_empty clear empty) (.head _)
    · exact ⟨_, _, _, .rpop empty, exec_rpop_of_nonempty clear empty⟩
  | crd idx =>
    obtain ⟨v, h⟩ | h := exec_crd_cases idx s
    · exact .of_answered h
    · exact .of_raised h (.head _)
  | reset => exact ⟨_, _, _, .reset, exec_reset s⟩

theorem performs_of_latched {s : State} (latched : s.fault = true) (i : Instr) : Performs s i := by
  cases i with
  | nop => exact .of_answered (exec_nop s)
  | crd idx =>
    obtain ⟨v, h⟩ | h := exec_crd_cases idx s
    · exact .of_answered h
    · exact .of_raised h (.head _)
  | reset => exact ⟨_, _, _, .reset, exec_reset s⟩
  | _ => exact ⟨_, _, _, .refused latched nofun nofun nofun, exec_of_latched latched nofun nofun nofun⟩

theorem exists_effect_of_exec {i : Instr} {s t : State} (h : exec i s = .next t) :
    ∃ u st d, Effect s i u st d ∧ t = u.answer st d := by
  have performs : Performs s i := by
    cases fault : s.fault with
    | true => exact performs_of_latched fault i
    | false => exact performs_of_clear fault i
  obtain ⟨u, st, d, eff, h'⟩ := performs
  exact ⟨u, st, d, eff, Host.Outcome.next.inj (h.symm.trans h')⟩

/-! #### The response (60_exceptions.md R232) -/

theorem Effect.rsps {s u : State} {i : Instr} {st : Status} {d : Word} (h : Effect s i u st d) : u.rsps = s.rsps := by
  cases h with
  | srun clear running ends => exact (congrArg State.rsps ends.frame).trans rfl
  | _ => rfl

theorem Effect.status {s u : State} {i : Instr} {st : Status} {d : Word} (h : Effect s i u st d) :
    st = .ok ∨ st ∈ ownErrors i ∨ (st = .eFaulted ∧ s.fault = true ∧ i ≠ .nop ∧ i ≠ .reset ∧ ∀ idx, i ≠ .crd idx) := by
  cases h with
  | refused latched hnop hreset hcrd => exact .inr (.inr ⟨rfl, latched, hnop, hreset, hcrd⟩)
  | raised own => exact .inr (.inl own)
  | srun clear running ends =>
    obtain ⟨rfl, -⟩ | ⟨rfl, -⟩ := ends.status
    · exact .inl rfl
    · exact .inr (.inl (.tail _ (.head _)))
  | _ => exact .inl rfl

/-- Settles O11: the status of each effect, and the response carries it. -/
theorem commandsRaiseOnlyTheirOwnErrors : Obligations.CommandsRaiseOnlyTheirOwnErrors := by
  unfold Obligations.CommandsRaiseOnlyTheirOwnErrors
  intro i s t r h hr
  obtain ⟨u, st, d, eff, rfl⟩ := exists_effect_of_exec h
  obtain ⟨rfl, -⟩ := List.cons.inj hr
  have carries := hasStatus_rsp st d
  obtain rfl | own | ⟨rfl, latched, hnop, hreset, hcrd⟩ := eff.status
  · exact .inl carries
  · exact .inr (.inl ⟨st, own, carries⟩)
  · exact .inr (.inr ⟨carries, latched, hnop, hreset, hcrd⟩)

/-! #### The target store (10_state.md R27, R33; 44_searcher.md R179) -/

section
variable {s u : State} {i : Instr} {st : Status} {d : Word}

/-- Only `TINS` allocates, and only `TCLR` and `RESET` deallocate. -/
theorem Effect.tn (h : Effect s i u st d) (hclr : i ≠ .tclr) (hreset : i ≠ .reset) :
    u.tn = s.tn ∨ (u.tn = s.tn + 1 ∧ ∃ hash, i = .tins hash) := by
  cases h with
  | tins => exact .inr ⟨rfl, _, rfl⟩
  | tclr => exact absurd rfl hclr
  | reset => exact absurd rfl hreset
  | srun clear running ends => exact .inl ((congrArg State.tn ends.frame).trans rfl)
  | _ => exact .inl rfl

/-- An allocated slot stays as it is or is resolved. -/
theorem Effect.slots (h : Effect s i u st d) (hreset : i ≠ .reset) {j : Nat} (hj : j < s.tn.toNat) :
    SlotAdvances s.tgt[j]? u.tgt[j]? := by
  cases h with
  | tins =>
    rw [State.allocate_tgt, List.getElem?_set_ne (by omega)]
    exact .same _
  | reset => exact absurd rfl hreset
  | srun clear running ends => exact ends.slots j
  | _ => exact .same _

end

/-- A slot that a search may have resolved still holds its hash and trim. -/
theorem SlotAdvances.exists_some {sl : Slot} {o : Option Slot} (h : SlotAdvances (some sl) o) :
    ∃ sl', o = some sl' ∧ sl'.hash = sl.hash ∧ sl'.trim = sl.trim ∧ (sl'.pend = true → sl.pend = true) := by
  cases h with
  | same => exact ⟨sl, rfl, rfl, rfl, id⟩
  | resolved pending => exact ⟨_, rfl, rfl, rfl, fun _ => pending⟩

/-- Settles O36: what the effects do to `TN` and to the slots below it. -/
theorem allocatedSlotsOnlyLosePend : Obligations.AllocatedSlotsOnlyLosePend := by
  unfold Obligations.AllocatedSlotsOnlyLosePend
  intro i s t h hclr hreset
  obtain ⟨u, st, d, eff, rfl⟩ := exists_effect_of_exec h
  exact ⟨eff.tn hclr hreset, fun j sl hj hsl => (hsl ▸ eff.slots hreset hj).exists_some⟩

/-- The whole store after a search, slot by slot. -/
theorem forall₂_of_slotAdvances {a b : List Slot} (h : ∀ j : Nat, SlotAdvances a[j]? b[j]?) :
    List.Forall₂ (fun x y => y.hash = x.hash ∧ y.trim = x.trim ∧ (y.pend = true → x.pend = true)) a b := by
  induction a generalizing b with
  | nil =>
    cases b with
    | nil => exact .nil
    | cons y b => cases h 0
  | cons x a ih =>
    obtain ⟨y, hy, kept⟩ := (h 0).exists_some
    cases b with
    | nil => cases hy
    | cons z b =>
      obtain rfl : z = y := Option.some.inj hy
      exact .cons kept (ih fun j => h (j + 1))

/-- Settles O42: the three commands that test for a search raise `E_BUSY`, and of the others only `SRUN` writes the store. -/
theorem indexIsOwnedByTheSearch : Obligations.IndexIsOwnedByTheSearch := by
  unfold Obligations.IndexIsOwnedByTheSearch
  intro i s t running clear h
  refine ⟨fun owned => ?_, fun hreset => ?_⟩
  · obtain rfl | rfl | ⟨hash, rfl⟩ := owned
    · exact (Host.Outcome.next.inj ((exec_tclr_of_running clear running).symm.trans h)).symm
    · exact (Host.Outcome.next.inj ((exec_sstart_of_running clear running).symm.trans h)).symm
    · exact (Host.Outcome.next.inj ((exec_tins_of_running clear running hash).symm.trans h)).symm
  · obtain ⟨u, st, d, eff, rfl⟩ := exists_effect_of_exec h
    cases eff with
    | tins idle | tclr idle => exact absurd (running.symm.trans idle) (by decide)
    | reset => exact absurd rfl hreset
    | srun clear running ends =>
      exact ⟨(congrArg State.tn ends.frame).trans rfl, .inr ⟨⟨_, rfl⟩, forall₂_of_slotAdvances ends.slots⟩⟩
    | _ => exact ⟨rfl, .inl rfl⟩

/-! #### The flags (10_state.md R23; 60_exceptions.md R229) -/

/-- A flag stays, or is set as `set` allows, or is cleared as `cleared` allows. -/
def FlagMoves (before after : Bool) (set cleared : Prop) : Prop :=
  after = before ∨ (after = true ∧ set) ∨ (after = false ∧ cleared)

theorem FlagMoves.rules {before after : Bool} {set cleared : Prop} (h : FlagMoves before after set cleared) :
    (before = false → after = true → set) ∧ (before = true → after = false → cleared) := by
  obtain rfl | ⟨rfl, hset⟩ | ⟨rfl, hcleared⟩ := h
  · exact ⟨fun h h' => absurd (h.symm.trans h') (by decide), fun h h' => absurd (h.symm.trans h') (by decide)⟩
  · exact ⟨fun _ _ => hset, nofun⟩
  · exact ⟨nofun, fun _ _ => hcleared⟩

/-- A flag that a search may set and never clears. -/
theorem FlagMoves.of_kept {before after : Bool} {set cleared : Prop} (kept : before = true → after = true)
    (hset : before = false → after = true → set) : FlagMoves before after set cleared := by
  cases before with
  | true => exact .inl (kept rfl)
  | false =>
    cases after with
    | true => exact .inr (.inl ⟨rfl, hset rfl rfl⟩)
    | false => exact .inl rfl

namespace Effect

variable {s u : State} {i : Instr} {st : Status} {d : Word}

theorem hv (h : Effect s i u st d) : FlagMoves s.hv u.hv (∃ len, i = .hinit len) (i = .reset) := by
  cases h with
  | hinit => exact .inr (.inl ⟨rfl, _, rfl⟩)
  | reset => exact .inr (.inr ⟨rfl, rfl⟩)
  | srun clear running ends => exact .inl ((congrArg State.hv ends.frame).trans rfl)
  | _ => exact .inl rfl

theorem run (h : Effect s i u st d) :
    FlagMoves s.run u.run (i = .sstart ∧ 0 < u.pendingCount) (i = .sstop ∨ i = .reset ∨ ∃ n, i = .srun n) := by
  cases h with
  | sstart clear idle =>
    by_cases pending : 0 < s.pendingCount
    · exact .inr (.inl ⟨decide_eq_true pending, rfl, pending⟩)
    · exact .inl ((decide_eq_false pending).trans idle.symm)
  | @srun n u _ _ clear running ends =>
    cases ended : u.run with
    | true => exact .inl running.symm
    | false => exact .inr (.inr ⟨rfl, .inr (.inr ⟨_, rfl⟩)⟩)
  | sstop => exact .inr (.inr ⟨rfl, .inl rfl⟩)
  | reset => exact .inr (.inr ⟨rfl, .inr (.inl rfl)⟩)
  | _ => exact .inl rfl

theorem fe (h : Effect s i u st d) :
    FlagMoves s.fe u.fe (u.pendingCount = 0 ∧ (i = .sstart ∨ ∃ n, i = .srun n))
      (i = .sstart ∨ i = .sstop ∨ i = .tclr ∨ i = .reset) := by
  cases h with
  | tclr => exact .inr (.inr ⟨rfl, .inr (.inr (.inl rfl))⟩)
  | sstart =>
    by_cases pending : 0 < s.pendingCount
    · exact .inr (.inr ⟨congrArg (!·) (decide_eq_true pending), .inl rfl⟩)
    · exact .inr (.inl ⟨congrArg (!·) (decide_eq_false pending), Nat.eq_zero_of_not_pos pending, .inl rfl⟩)
  | srun clear running ends =>
    exact .of_kept ends.flags.fe_kept fun was is => ⟨(ends.flags.fe_set was is).1, .inr ⟨_, rfl⟩⟩
  | sstop => exact .inr (.inr ⟨rfl, .inr (.inl rfl)⟩)
  | reset => exact .inr (.inr ⟨rfl, .inr (.inr (.inr rfl))⟩)
  | _ => exact .inl rfl

theorem fx (h : Effect s i u st d) :
    FlagMoves s.fx u.fx (0 < u.pendingCount ∧ ∃ n, i = .srun n) (i = .sstart ∨ i = .sstop ∨ i = .tclr ∨ i = .reset) := by
  cases h with
  | tclr => exact .inr (.inr ⟨rfl, .inr (.inr (.inl rfl))⟩)
  | sstart => exact .inr (.inr ⟨rfl, .inl rfl⟩)
  | srun clear running ends =>
    exact .of_kept ends.flags.fx_kept fun was is => ⟨(ends.flags.fx_set was is).1, _, rfl⟩
  | sstop => exact .inr (.inr ⟨rfl, .inr (.inl rfl)⟩)
  | reset => exact .inr (.inr ⟨rfl, .inr (.inr (.inr rfl))⟩)
  | _ => exact .inl rfl

theorem fault (h : Effect s i u st d) :
    FlagMoves s.fault u.fault ((∃ n, i = .srun n) ∧ u.run = false ∧ st = .eConsist) (i = .reset) := by
  cases h with
  | srun clear running ends =>
    obtain ⟨-, same⟩ | ⟨rfl, latched, ended⟩ := ends.status
    · exact .inl same
    · exact .inr (.inl ⟨latched, ⟨_, rfl⟩, ended, rfl⟩)
  | reset => exact .inr (.inr ⟨rfl, rfl⟩)
  | _ => exact .inl rfl

end Effect

/-- Settles O56: how each of the five flags moves. -/
theorem flagsChangeOnlyByTheirCommands : Obligations.FlagsChangeOnlyByTheirCommands := by
  unfold Obligations.FlagsChangeOnlyByTheirCommands
  intro i s t h
  obtain ⟨u, st, d, eff, rfl⟩ := exists_effect_of_exec h
  refine ⟨eff.hv.rules.1, eff.hv.rules.2, eff.run.rules.1, eff.run.rules.2, eff.fe.rules.1, eff.fe.rules.2, eff.fx.rules.1,
    eff.fx.rules.2, fun was is => ?_, eff.fault.rules.2⟩
  obtain ⟨hi, ended, rfl⟩ := eff.fault.rules.1 was is
  exact ⟨hi, ended, d, congrArg _ eff.rsps⟩

/-! #### The cursor and the odometer (42_alphabet.md R146) -/

/-- Settles O58: two commands move the cursor, two others the odometer. -/
theorem cursorAndOdometerMoveApart : Obligations.CursorAndOdometerMoveApart := by
  unfold Obligations.CursorAndOdometerMoveApart
  intro i s t h hreset
  obtain ⟨u, st, d, eff, rfl⟩ := exists_effect_of_exec h
  cases eff with
  | arst => exact ⟨fun _ => ⟨.inl rfl, rfl⟩, fun moved => absurd rfl moved⟩
  | anext => exact ⟨fun _ => ⟨.inr rfl, rfl⟩, fun moved => absurd rfl moved⟩
  | sstart => exact ⟨fun moved => absurd rfl moved, fun _ => ⟨.inl rfl, rfl⟩⟩
  | srun clear running ends =>
    have same := (congrArg State.ac ends.frame).trans rfl
    exact ⟨fun moved => absurd same moved, fun _ => ⟨.inr ⟨_, rfl⟩, same⟩⟩
  | reset => exact absurd rfl hreset
  | _ => exact ⟨fun moved => absurd rfl moved, fun moved => absurd rfl moved⟩

/-! #### Reading commands (20_memory.md R58) -/

/-- A command that answers from the state alone, whatever has been answered before, and writes nothing. -/
def Reads (f : State → State) : Prop :=
  ∀ s : State, ∃ st d, ∀ given : List ResponseWord, f { s with rsps := given } = { s with rsps := given }.answer st d

namespace Reads

variable {f g : State → State}

theorem answer {d : State → Word} (apart : ∀ s given, d { s with rsps := given } = d s) : Reads fun s => s.answer .ok (d s) :=
  fun s => ⟨.ok, d s, fun given => congrArg _ (apart s given)⟩

theorem raise (e : Status) : Reads fun s => s.raise e := fun _ => ⟨e, 0, fun _ => rfl⟩

/-- A test that does not look at the responses. -/
theorem ite {p : State → Prop} [DecidablePred p] (apart : ∀ s given, p { s with rsps := given } ↔ p s) (hf : Reads f)
    (hg : Reads g) : Reads fun s => if p s then f s else g s := by
  intro s
  by_cases h : p s
  · obtain ⟨st, d, answers⟩ := hf s
    exact ⟨st, d, fun given => (if_pos ((apart s given).2 h)).trans (answers given)⟩
  · obtain ⟨st, d, answers⟩ := hg s
    exact ⟨st, d, fun given => (if_neg fun h' => h ((apart s given).1 h')).trans (answers given)⟩

theorem unlessFaulted (hf : Reads f) : Reads fun s => unlessFaulted s f :=
  ite (p := fun s => s.fault = true) (fun _ _ => .rfl) (raise _) hf

theorem requireHash (hf : Reads f) : Reads fun s => requireHash s f :=
  ite (p := fun s => s.hv = true) (fun _ _ => .rfl) hf (raise _)

end Reads

theorem reads_crd (idx : BitVec 8) :
    Reads fun s => match s.csr idx.toNat with
      | some v => s.answer .ok v
      | none => s.raise .eRange := by
  intro s
  have apart (given : List ResponseWord) : State.csr { s with rsps := given } idx.toNat = s.csr idx.toNat := rfl
  cases h : s.csr idx.toNat with
  | some v =>
    refine ⟨.ok, v, fun given => ?_⟩
    simp only [apart, h]
  | none =>
    refine ⟨.eRange, 0, fun given => ?_⟩
    simp only [apart, h]
    rfl

/-- What a reading command does, done twice. -/
theorem Reads.twice {f : State → State} {i : Instr} (hf : Reads f) (hi : ∀ s, exec i s = complete (f s)) {s t : State}
    (h : exec i s = .next t) :
    t = { s with rsps := t.rsps } ∧ ∃ r u, t.rsps = r :: s.rsps ∧ exec i t = .next u ∧ u.rsps = r :: t.rsps := by
  obtain ⟨st, d, answers⟩ := hf s
  obtain rfl : f s = t := Host.Outcome.next.inj ((hi s).symm.trans h)
  have once : f s = s.answer st d := answers s.rsps
  rw [once]
  exact ⟨rfl, rsp st d, _, rfl, (hi _).trans rfl, congrArg State.rsps (answers (rsp st d :: s.rsps))⟩

/-- Settles O57: each reading command answers from the state alone; what the others write is in their effects. -/
theorem readingHasOnlyTheNamedSideEffects : Obligations.ReadingHasOnlyTheNamedSideEffects := by
  unfold Obligations.ReadingHasOnlyTheNamedSideEffects
  intro i s t h
  obtain ⟨v, st, d, eff, ht⟩ := exists_effect_of_exec h
  refine ⟨?_, ?_, ?_, ?_⟩
  · rintro (⟨n, rfl⟩ | ⟨n, k, rfl⟩ | rfl | ⟨p, rfl⟩ | ⟨sel, rfl⟩ | ⟨idx, rfl⟩ | rfl | ⟨b, rfl⟩ | ⟨hash, rfl⟩)
    · exact (Reads.unlessFaulted (.ite (fun _ _ => .rfl) (.raise _) (.answer fun _ _ => rfl))).twice (fun _ => rfl) h
    · exact (Reads.unlessFaulted (.ite (fun _ _ => .rfl) (.raise _) (.ite (fun _ _ => .rfl) (.raise _)
        (.answer fun _ _ => rfl)))).twice (fun _ => rfl) h
    · exact (Reads.unlessFaulted (.answer fun _ _ => rfl)).twice (fun _ => rfl) h
    · exact (Reads.unlessFaulted (.answer fun _ _ => rfl)).twice (fun _ => rfl) h
    · exact (Reads.unlessFaulted (.ite (fun _ _ => .rfl) (.raise _) (.ite (fun _ _ => .rfl) (.raise _)
        (.answer fun _ _ => rfl)))).twice (fun _ => rfl) h
    · exact (reads_crd idx).twice (fun _ => rfl) h
    · exact (Reads.unlessFaulted (.requireHash (.answer fun _ _ => rfl))).twice (fun _ => rfl) h
    · exact (Reads.unlessFaulted (.answer fun _ _ => rfl)).twice (fun _ => rfl) h
    · exact (Reads.unlessFaulted (.answer fun _ _ => rfl)).twice (fun _ => rfl) h
  · rintro (rfl | rfl) <;> cases eff <;> rw [ht] <;> rfl
  · rintro rfl
    cases eff <;> rw [ht] <;> rfl
  · rintro rfl
    cases eff <;> rw [ht] <;> rfl

/-! #### The search commands and the other units (44_searcher.md R177; 70_reset_and_hazards.md R260) -/

/-- A search command ends alike from a state that differs in the elements of the other units. -/
theorem exec_besides {i : Instr} (hi : i = .sstart ∨ i = .sstop ∨ ∃ n, i = .srun n) (s o : State) :
    ∃ (u : State) (st : Status) (d : Word), exec i s = .next (u.answer st d) ∧ u.rsps = s.rsps ∧ exec i (s.besides o) = .next ((u.besides o).answer st d) := by
  have searches : i ≠ .nop ∧ i ≠ .reset ∧ ∀ idx, i ≠ .crd idx := by
    obtain rfl | rfl | ⟨n, rfl⟩ := hi <;> exact ⟨nofun, nofun, nofun⟩
  obtain ⟨hnop, hreset, hcrd⟩ := searches
  cases clear : s.fault with
  | true =>
    exact ⟨s, _, _, exec_of_latched clear hnop hreset hcrd, rfl,
      exec_of_latched (s := s.besides o) clear hnop hreset hcrd⟩
  | false =>
    obtain rfl | rfl | ⟨n, rfl⟩ := hi
    · cases run : s.run with
      | true => exact ⟨s, _, _, exec_sstart_of_running clear run, rfl, exec_sstart_of_running (s := s.besides o) clear run⟩
      | false => exact ⟨_, _, _, exec_sstart_of_idle clear run, rfl, exec_sstart_of_idle (s := s.besides o) clear run⟩
    · cases run : s.run with
      | true => exact ⟨_, _, _, exec_sstop_of_running clear run, rfl, exec_sstop_of_running (s := s.besides o) clear run⟩
      | false => exact ⟨s, _, _, exec_sstop_of_idle clear run, rfl, exec_sstop_of_idle (s := s.besides o) clear run⟩
    · cases run : s.run with
      | true =>
        obtain ⟨u, st, k, ends⟩ := LoopEnds.exists_of n.toNat s
        exact ⟨u, _, _, exec_srun_of_loopEnds clear run ends, (congrArg State.rsps ends.frame).trans rfl,
          exec_srun_of_loopEnds (s := s.besides o) clear run (ends.besides o)⟩
      | false => exact ⟨s, _, _, exec_srun_of_idle clear run n, rfl, exec_srun_of_idle (s := s.besides o) clear run n⟩

/-- Settles O48: the state that differs is `s` beside one with the other elements, and so is the state it ends in. -/
theorem searchIsIndependentOfTheOtherUnits : Obligations.SearchIsIndependentOfTheOtherUnits := by
  unfold Obligations.SearchIsIndependentOfTheOtherUnits
  intro i s t h hv ma msg ac hi ht
  obtain ⟨u, st, d, here, rsps, there⟩ := exec_besides hi s { s with h := h, hv := hv, ma := ma, msg := msg, ac := ac }
  obtain rfl := Host.Outcome.next.inj (here.symm.trans ht)
  refine there.trans (congrArg Host.Outcome.next ?_)
  rw [State.besides, ← rsps]
  rfl

/-! #### One `SRUN` or two (44_searcher.md R180) -/

/-- While the search is still in progress, the loop has done all its steps. -/
theorem LoopEnds.searched {s u : State} {st : Status} {n k : Nat} (h : LoopEnds s n u st k) (running : u.run = true) :
    st = .ok ∧ k = n ∧ Searched s n u := by
  cases h with
  | completed reached le ended =>
    obtain rfl : k = n := Nat.le_antisymm le (Nat.not_lt.1 fun lt => by simp [ended lt] at running)
    exact ⟨rfl, rfl, reached⟩
  | violated => cases running

/-- Settles O41: an ended loop ends alike with more steps; else the second loop goes on where the first has stopped, from a
state that differs in the responses only. -/
theorem splittingARunChangesNothing : Obligations.SplittingARunChangesNothing := by
  unfold Obligations.SplittingARunChangesNothing
  intro n k s t clear running fits h
  have total : (n + k).toNat = n.toNat + k.toNat := BitVec.toNat_add_of_lt fits
  obtain ⟨u, st, j, ends⟩ := LoopEnds.exists_of n.toNat s
  obtain rfl := Host.Outcome.next.inj ((exec_srun_of_loopEnds clear running ends).symm.trans h)
  refine ⟨fun ended => ?_, fun still => ?_⟩
  · exact exec_srun_of_loopEnds clear running (ends.more (total ▸ Nat.le_add_right _ _) ended)
  · obtain ⟨rfl, rfl, reached⟩ := ends.searched still
    obtain ⟨v, st, d, more⟩ := LoopEnds.exists_of k.toNat u
    have whole : LoopEnds s (n + k).toNat v st (n.toNat + d) := total ▸ more.after reached
    have kept : (u.answer .ok (BitVec.ofNat 64 n.toNat)).fault = false := reached.fault.trans clear
    have same : v.besides u = v := (more.frame.besides_eq :)
    have given : v.rsps = s.rsps := (congrArg State.rsps whole.frame).trans rfl
    have count : BitVec.ofNat 64 (n.toNat + d) = n + BitVec.ofNat 64 d := by
      rw [BitVec.ofNat_add, BitVec.ofNat_toNat, BitVec.setWidth_eq]
    refine ⟨_, _, st, BitVec.ofNat 64 d,
      exec_srun_of_loopEnds kept still (more.besides (u.answer .ok (BitVec.ofNat 64 n.toNat))),
      exec_srun_of_loopEnds clear running whole, rfl, ?_, ?_⟩
    · rw [State.answer_rsps, given, count]
    · rw [← same]
      rfl

end Sys2Proof.Machine
end

/-! ### The odometer as a number (44_searcher.md R171, R173) -/

section
namespace Sys2Proof.Machine

/-- The number that digits to the base 94 write, the slowest digit first. -/
def digitsNumber : List (BitVec 7) → Nat
  | [] => 0
  | d :: ds => d.toNat * 94 ^ ds.length + digitsNumber ds

theorem Odometer.index_eq_digitsNumber (o : Odometer) : o.index = digitsNumber o.digits := by
  simp only [Odometer.index, Odometer.digits, digitsNumber, List.length_cons, List.length_nil]
  omega

theorem digitsNumber_lt {ds : List (BitVec 7)} (legal : ∀ d ∈ ds, d.toNat ≤ 93) : digitsNumber ds < 94 ^ ds.length := by
  induction ds with
  | nil => exact Nat.one_pos
  | cons d ds ih =>
    obtain ⟨hd, hds⟩ := List.forall_mem_cons.1 legal
    have high : d.toNat * 94 ^ ds.length ≤ 93 * 94 ^ ds.length := Nat.mul_le_mul_right _ hd
    have low := ih hds
    rw [digitsNumber, List.length_cons, Nat.pow_succ]
    omega

theorem Odometer.index_lt {o : Odometer} (legal : o.legal) : o.index < 94 ^ 8 := by
  rw [Odometer.index_eq_digitsNumber]
  exact digitsNumber_lt legal

/-- A slower digit outweighs all faster ones. -/
theorem digitsNumber_cons_lt {d e : BitVec 7} {ds es : List (BitVec 7)} (len : ds.length = es.length)
    (hds : ∀ x ∈ ds, x.toNat ≤ 93) (h : d.toNat < e.toNat) : digitsNumber (d :: ds) < digitsNumber (e :: es) := by
  have low := digitsNumber_lt hds
  have high : (d.toNat + 1) * 94 ^ ds.length ≤ e.toNat * 94 ^ ds.length := Nat.mul_le_mul_right _ h
  rw [Nat.succ_mul] at high
  rw [digitsNumber, digitsNumber, ← len]
  omega

/-- The order of bytes by which the documents' strings are sorted. -/
def ByteLt (a b : Byte) : Prop := a.toNat < b.toNat

theorem not_lex_cons_of_lt {a b : Byte} {as bs : List Byte} (h : ByteLt b a) : ¬ List.Lex ByteLt (a :: as) (b :: bs) := by
  intro lex
  cases lex with
  | cons => exact Nat.lt_irrefl _ h
  | rel h' => exact Nat.lt_asymm h h'

theorem lex_cons_self_iff {a : Byte} {as bs : List Byte} : List.Lex ByteLt (a :: as) (a :: bs) ↔ List.Lex ByteLt as bs := by
  refine ⟨fun lex => ?_, .cons⟩
  cases lex with
  | cons h => exact h
  | rel h => exact absurd h (Nat.lt_irrefl _)

/-- The numbers of digit strings of one length are ordered as their bytes are. -/
theorem digitsNumber_lt_iff_lex {ds es : List (BitVec 7)} (len : ds.length = es.length) (hds : ∀ x ∈ ds, x.toNat ≤ 93)
    (hes : ∀ x ∈ es, x.toNat ≤ 93) :
    digitsNumber ds < digitsNumber es ↔ List.Lex ByteLt (ds.map alpha) (es.map alpha) := by
  induction ds generalizing es with
  | nil =>
    obtain rfl : es = [] := List.length_eq_zero_iff.1 len.symm
    exact ⟨fun h => absurd h (Nat.lt_irrefl _), fun h => nomatch h⟩
  | cons d ds ih =>
    cases es with
    | nil => cases len
    | cons e es =>
      obtain ⟨hd, hds'⟩ := List.forall_mem_cons.1 hds
      obtain ⟨he, hes'⟩ := List.forall_mem_cons.1 hes
      replace len : ds.length = es.length := Nat.succ.inj len
      rw [List.map_cons, List.map_cons]
      obtain below | same | above := Nat.lt_trichotomy d.toNat e.toNat
      · exact iff_of_true (digitsNumber_cons_lt len hds' below) (.rel (alpha_lt_alpha he below))
      · obtain rfl : d = e := BitVec.eq_of_toNat_eq same
        rw [lex_cons_self_iff, ← ih len hds' hes', digitsNumber, digitsNumber, len, Nat.add_lt_add_iff_left]
      · exact iff_of_false (Nat.not_lt_of_gt (digitsNumber_cons_lt len.symm hes' above))
          (not_lex_cons_of_lt (alpha_lt_alpha hd above))

/-- `OdoInc` counts (R173). -/
theorem Odometer.index_of_next? {o o' : Odometer} (legal : o.legal) (h : o.next? = some o') : o'.index = o.index + 1 := by
  have counted : ∀ d : BitVec 7, d.toNat ≤ 93 → (d + 1).toNat = d.toNat + 1 := by decide
  have restarted : (0 : BitVec 7).toNat = 0 := rfl
  have full : ∀ d : BitVec 7, ¬ d ≠ 93 → d.toNat = 93 := by decide
  simp only [Odometer.legal, Odometer.digits, List.forall_mem_cons, List.not_mem_nil, false_implies, implies_true,
    and_true] at legal
  obtain ⟨h0, h1, h2, h3, h4, h5, h6, h7⟩ := legal
  unfold Odometer.next? at h
  split_ifs at h <;> cases h <;> simp only [Odometer.index, *, not_false_eq_true] <;> omega

/-- Only the last odometer has no next one. -/
theorem Odometer.next?_eq_none_iff (o : Odometer) : o.next? = none ↔ o.digits = List.replicate 8 93 := by
  have digits : o.digits = List.replicate 8 93 ↔ o.d7 = 93 ∧ o.d6 = 93 ∧ o.d5 = 93 ∧ o.d4 = 93 ∧ o.d3 = 93 ∧ o.d2 = 93 ∧
      o.d1 = 93 ∧ o.d0 = 93 := by
    simp only [Odometer.digits, List.replicate, List.cons.injEq]
    tauto
  rw [digits]
  unfold Odometer.next?
  split_ifs <;> simp_all

/-- Settles O37: `OdoInc` counts the number of the digits to the base 94, and that orders as the bytes do. -/
theorem odometerCountsInLexicographicOrder : Obligations.OdometerCountsInLexicographicOrder := by
  unfold Obligations.OdometerCountsInLexicographicOrder
  refine ⟨fun o legal => ⟨fun o' next => ⟨Odometer.legal_of_next? legal next, Odometer.index_of_next? legal next⟩,
    o.next?_eq_none_iff, Odometer.index_lt legal⟩, fun o o' legal legal' => ?_⟩
  rw [Odometer.index_eq_digitsNumber, Odometer.index_eq_digitsNumber]
  exact digitsNumber_lt_iff_lex rfl legal legal'

/-- A legal odometer with no next one has the last number. -/
theorem Odometer.index_of_last {o : Odometer} (h : o.next? = none) : o.index + 1 = 94 ^ 8 := by
  have digits := o.next?_eq_none_iff.1 h
  rw [Odometer.index_eq_digitsNumber, digits]
  decide

end Sys2Proof.Machine
end

/-! ### The match, slot by slot (44_searcher.md R174, R175)

As far as every slot passes its consistency check the match is a map and a filter over the slots. -/

section
namespace Sys2Proof.Machine

/-- The slot is in the bucket of `p` and its candidate is a valid tail word: the match looks at its hash (R174). -/
def Slot.matched (p : Word) (t : Slot) : Bool := t.inBucket (sig p) && validTail (candidate p t)

/-- The slot after the match: a matched one is no longer pending. -/
def Slot.resolve (p : Word) (t : Slot) : Slot := { t with pend := t.pend && !t.matched p }

/-- The record that a matched slot leaves. -/
def keyRecord (x : List Byte) (p : Word) (t : Slot) : Record := recordOf t (candidateKey x p t)

/-- The consistency check of a matched slot (R175). -/
def Slot.Passes (c : Params) (x : List Byte) (p : Word) (t : Slot) : Prop :=
  t.matched p = true → forwardHash c (candidateKey x p t) = t.hash

theorem Slot.pend_of_matched {p : Word} {t : Slot} (h : t.matched p = true) : t.pend = true :=
  (Bool.and_eq_true_iff.1 (Bool.and_eq_true_iff.1 h).1).1

/-- The bucket prunes no valid candidate (43_targetindex.md R152). -/
theorem Slot.matched_eq (p : Word) (t : Slot) : t.matched p = (t.pend && validTail (p ^^^ t.trim)) := by
  unfold Slot.matched Slot.inBucket candidate
  cases valid : validTail (p ^^^ t.trim) with
  | false => rw [Bool.and_false, Bool.and_false]
  | true =>
    have same : (sig t.trim == sig p) = true := beq_iff_eq.2 (sig_eq_of_validTail_xor valid).symm
    rw [same, Bool.and_true]

theorem Slot.resolve_of_matched {p : Word} {t : Slot} (h : t.matched p = true) : t.resolve p = { t with pend := false } := by
  rw [Slot.resolve, h, Bool.not_true, Bool.and_false]

theorem Slot.resolve_of_not_matched {p : Word} {t : Slot} (h : t.matched p = false) : t.resolve p = t := by
  rw [Slot.resolve, h, Bool.not_false, Bool.and_true]

@[simp] theorem Slot.resolve_hash (p : Word) (t : Slot) : (t.resolve p).hash = t.hash := rfl

@[simp] theorem Slot.resolve_trim (p : Word) (t : Slot) : (t.resolve p).trim = t.trim := rfl

section
variable {c : Params} {x : List Byte} {p : Word}

theorem matchSlots_cons_of_not_matched {t : Slot} (h : t.matched p = false) (ts : List Slot) :
    matchSlots c x p (t :: ts) =
      ⟨t :: (matchSlots c x p ts).slots, (matchSlots c x p ts).records, (matchSlots c x p ts).violated⟩ := by
  have judged : judgeSlot c x p t = .skip := by
    obtain ⟨e, -⟩ | ⟨-, bucket, valid, -⟩ | ⟨-, bucket, valid, -⟩ := judgeSlot_cases c x p t
    · exact e
    · exact absurd (h.symm.trans (Bool.and_eq_true_iff.2 ⟨bucket, valid⟩)) (by decide)
    · exact absurd (h.symm.trans (Bool.and_eq_true_iff.2 ⟨bucket, valid⟩)) (by decide)
  rw [matchSlots, judged]

theorem judgeSlot_of_matched {t : Slot} (h : t.matched p = true) :
    judgeSlot c x p t = if forwardHash c (candidateKey x p t) = t.hash then .hit (candidateKey x p t) else .violation := by
  obtain ⟨bucket, valid⟩ := Bool.and_eq_true_iff.1 h
  rw [judgeSlot, if_pos bucket, if_pos valid]

/-- The loop ends at a slot that fails its check. -/
theorem matchSlots_cons_of_fails {t : Slot} (h : t.matched p = true) (fails : forwardHash c (candidateKey x p t) ≠ t.hash)
    (ts : List Slot) : matchSlots c x p (t :: ts) = ⟨t :: ts, [], true⟩ := by
  rw [matchSlots, judgeSlot_of_matched h, if_neg fails]

/-- Slots that pass are resolved as they match, and the loop goes on behind them. -/
theorem matchSlots_append {ts : List Slot} (pass : ∀ t ∈ ts, t.Passes c x p) (us : List Slot) :
    matchSlots c x p (ts ++ us) =
      ⟨ts.map (Slot.resolve p) ++ (matchSlots c x p us).slots,
        (ts.filter (Slot.matched p)).map (keyRecord x p) ++ (matchSlots c x p us).records, (matchSlots c x p us).violated⟩ := by
  induction ts with
  | nil => rfl
  | cons t ts ih =>
    obtain ⟨ht, hts⟩ := List.forall_mem_cons.1 pass
    cases h : t.matched p with
    | false =>
      rw [List.cons_append, matchSlots_cons_of_not_matched h, ih hts, List.map_cons, Slot.resolve_of_not_matched h,
        List.filter_cons_of_neg (by simp [h])]
      rfl
    | true =>
      rw [List.cons_append, matchSlots, judgeSlot_of_matched h, if_pos (ht h), ih hts, List.map_cons,
        Slot.resolve_of_matched h, List.filter_cons_of_pos h]
      rfl

/-- With every slot passing the match is a map and a filter. -/
theorem matchSlots_of_passes {ts : List Slot} (pass : ∀ t ∈ ts, t.Passes c x p) :
    matchSlots c x p ts = ⟨ts.map (Slot.resolve p), (ts.filter (Slot.matched p)).map (keyRecord x p), false⟩ := by
  have whole := matchSlots_append pass []
  rw [List.append_nil] at whole
  simpa [matchSlots] using whole

/-- In any case there is a first slot that fails, or none. -/
theorem exists_matchSlots_eq (c : Params) (x : List Byte) (p : Word) (ts : List Slot) :
    ∃ n, (∀ t ∈ ts.take n, t.Passes c x p) ∧ (matchSlots c x p ts).slots = (ts.take n).map (Slot.resolve p) ++ ts.drop n ∧
      (matchSlots c x p ts).records = ((ts.take n).filter (Slot.matched p)).map (keyRecord x p) := by
  induction ts with
  | nil => exact ⟨0, nofun, rfl, rfl⟩
  | cons t ts ih =>
    by_cases pass : t.Passes c x p
    · obtain ⟨n, passes, slots, records⟩ := ih
      have first := matchSlots_append (ts := [t]) (c := c) (x := x) (p := p) (by simpa using pass) ts
      refine ⟨n + 1, List.forall_mem_cons.2 ⟨pass, passes⟩, ?_, ?_⟩
      · rw [List.singleton_append] at first
        rw [first, slots]
        rfl
      · rw [List.singleton_append] at first
        rw [first, records, ← List.map_append, ← List.filter_append]
        rfl
    · obtain ⟨h, fails⟩ := Classical.not_imp.1 pass
      refine ⟨0, nofun, ?_, ?_⟩ <;> rw [matchSlots_cons_of_fails h fails] <;> rfl

end

/-- The leading part that the odometer names, hashed as `PHASH` does it (40_hashcore.md R102; 44_searcher.md R172). -/
theorem Odometer.leadHash_eq (c : Params) (o : Odometer) : o.leadHash c = partialForwardHash c o.bytes 15 := by
  have len : o.bytes.length = 8 := rfl
  rw [partialForwardHash, len]
  rfl

/-- With a correct inverse a matched slot is a preimage of its hash (40_hashcore.md R107). -/
theorem Slot.passes_of_minvCorrect {c : Params} (hc : c.MinvCorrect) (o : Odometer) {t : Slot}
    (trim : t.trim = invertTrailingMix c t.hash) : t.Passes c o.bytes (o.leadHash c) := by
  intro h
  have valid := (Bool.and_eq_true_iff.1 h).2
  obtain ⟨top, -⟩ := (validTail_iff _).1 valid
  refine (tailOfAPreimageIsRecoveredDirectly c hc t.hash o.bytes _ rfl rfl).2 ?_
  rw [← trim, ← Odometer.leadHash_eq]
  exact ⟨top, rfl⟩

/-! ### The invariants, in three parts (10_state.md R34)

The lines about the two stores, those about the cursors and the buffer, and those about a search in progress speak of different
elements, and most commands write those of one part only. -/

/-- The lines about the target store and the result FIFO (2, 3, 7, 8 and part of 1). -/
structure State.StoresGood (s : State) : Prop where
  tgt_length : s.tgt.length = s.cfg.tgtCap.toNat
  res_length : s.res.length = s.cfg.tgtCap.toNat
  tn_le : s.tn.toNat ≤ s.cfg.tgtCap.toNat
  rn_le : s.rn.toNat ≤ s.cfg.tgtCap.toNat
  trims : ∀ t ∈ s.allocated, t.trim = invertTrailingMix s.cfg t.hash
  hashes_distinct : (s.allocated.map Slot.hash).Nodup
  records_good : ∀ r ∈ s.records, s.RecordGood r
  records_distinct : (s.records.map Record.hash).Nodup

/-- The lines about the cursors and the message buffer (part of 1). -/
structure State.CursorsGood (s : State) : Prop where
  ma_le : s.ma.toNat ≤ s.cfg.msgCap.toNat
  ac_le : s.ac.toNat ≤ 94
  msg_wf : Memory.wf s.msg = true
  msg_inside : ∀ cell ∈ s.msg, cell.1 < s.cfg.msgCap.toNat

/-- The lines about the search (4, 5, 6 and part of 1). -/
structure State.SearchGood (s : State) : Prop where
  digits_le : s.dig.legal
  running : s.run = true → 0 < s.pendingCount ∧ s.fe = false ∧ s.fx = false ∧ s.fault = false
  ends_exclusive : (s.fe && s.fx) = false
  progress : s.run = true → s.pcnt.toNat = s.dig.index

theorem State.Inv.stores {s : State} (inv : s.Inv) : s.StoresGood := { inv with }

theorem State.Inv.cursors {s : State} (inv : s.Inv) : s.CursorsGood := { inv with }

theorem State.Inv.search {s : State} (inv : s.Inv) : s.SearchGood := { inv with }

theorem State.Inv.of_parts {s : State} (stores : s.StoresGood) (cursors : s.CursorsGood) (search : s.SearchGood) : s.Inv :=
  { stores, cursors, search with }

/-- A record stays good while the slots that are resolved stay as they are. -/
theorem State.RecordGood.of_resolved {s t : State} {r : Record} (good : s.RecordGood r) (cfg : t.cfg = s.cfg)
    (resolved : ∀ sl ∈ s.allocated, sl.pend = false → sl ∈ t.allocated) : t.RecordGood r := by
  obtain ⟨sl, hsl, hash, done⟩ := good.resolved
  exact { good with
    key_hash := cfg ▸ good.key_hash
    resolved := ⟨sl, resolved sl hsl done, hash, done⟩ }

/-- The stores are all that their part of the invariants looks at. -/
theorem State.StoresGood.congr {s t : State} (good : s.StoresGood) (cfg : t.cfg = s.cfg) (tgt : t.tgt = s.tgt)
    (tn : t.tn = s.tn) (res : t.res = s.res) (rn : t.rn = s.rn) : t.StoresGood := by
  have allocated : t.allocated = s.allocated := by rw [State.allocated, tgt, tn, State.allocated]
  have records : t.records = s.records := by rw [State.records, res, rn, State.records]
  exact {
    tgt_length := by rw [tgt, cfg, good.tgt_length]
    res_length := by rw [res, cfg, good.res_length]
    tn_le := by rw [tn, cfg]; exact good.tn_le
    rn_le := by rw [rn, cfg]; exact good.rn_le
    trims := by rw [allocated, cfg]; exact good.trims
    hashes_distinct := by rw [allocated]; exact good.hashes_distinct
    records_good := fun r hr =>
      (good.records_good r (records ▸ hr)).of_resolved cfg fun sl hsl _ => allocated ▸ hsl
    records_distinct := by rw [records]; exact good.records_distinct }

/-! #### The stores: room in the FIFO for every pending slot -/

namespace State.StoresGood

variable {s : State} (good : s.StoresGood)
include good

theorem allocated_length : s.allocated.length = s.tn.toNat := by
  rw [State.allocated, List.length_take, good.tgt_length]
  exact Nat.min_eq_left good.tn_le

theorem records_length : s.records.length = s.rn.toNat := by
  rw [State.records, List.length_take, good.res_length]
  exact Nat.min_eq_left good.rn_le

/-- Two allocated slots with one hash are the same slot. -/
theorem eq_of_hash {a b : Slot} (ha : a ∈ s.allocated) (hb : b ∈ s.allocated) (h : a.hash = b.hash) : a = b :=
  List.inj_on_of_nodup_map good.hashes_distinct ha hb h

/-- No record has the hash of a pending slot. -/
theorem record_hash_ne {r : Record} (hr : r ∈ s.records) {sl : Slot} (hsl : sl ∈ s.allocated) (pending : sl.pend = true) :
    r.hash ≠ sl.hash := by
  intro same
  obtain ⟨sl', hsl', hash, done⟩ := (good.records_good r hr).resolved
  obtain rfl := good.eq_of_hash hsl' hsl (hash.trans same)
  exact absurd (pending.symm.trans done) (by decide)

/-- The records and a choice of pending slots have different hashes, all of them hashes of allocated slots. -/
theorem nodup_records_append {ts : List Slot} (sub : ts.Sublist s.allocated) (pending : ∀ t ∈ ts, t.pend = true) :
    (s.records.map Record.hash ++ ts.map Slot.hash).Nodup := by
  refine List.Nodup.append good.records_distinct (good.hashes_distinct.sublist (sub.map _)) fun hash old new => ?_
  obtain ⟨r, hr, rfl⟩ := List.mem_map.1 old
  obtain ⟨t, ht, same⟩ := List.mem_map.1 new
  exact good.record_hash_ne hr (sub.subset ht) (pending t ht) same.symm

/-- There is always room for the records of any choice of pending slots. -/
theorem rn_add_length_le {ts : List Slot} (sub : ts.Sublist s.allocated) (pending : ∀ t ∈ ts, t.pend = true) :
    s.rn.toNat + ts.length ≤ s.tn.toNat := by
  have within : s.records.map Record.hash ++ ts.map Slot.hash ⊆ s.allocated.map Slot.hash := by
    intro hash h
    obtain h | h := List.mem_append.1 h
    · obtain ⟨r, hr, rfl⟩ := List.mem_map.1 h
      obtain ⟨sl, hsl, same, -⟩ := (good.records_good r hr).resolved
      exact List.mem_map.2 ⟨sl, hsl, same⟩
    · exact (sub.map _).subset h
  have bound := ((good.nodup_records_append sub pending).subperm within).length_le
  simpa [good.records_length, good.allocated_length] using bound

end State.StoresGood

/-- Appending within the room of the FIFO. -/
theorem appendRecords_spec {rs : List Record} {s : State} (room : s.rn.toNat + rs.length ≤ s.res.length)
    (small : s.res.length < 2 ^ 32) :
    (rs.foldl State.appendRecord s).records = s.records ++ rs ∧
      (rs.foldl State.appendRecord s).rn.toNat = s.rn.toNat + rs.length ∧
      (rs.foldl State.appendRecord s).res.length = s.res.length := by
  induction rs generalizing s with
  | nil => exact ⟨(List.append_nil _).symm, rfl, rfl⟩
  | cons r rs ih =>
    rw [List.length_cons] at room
    have next : (s.rn + 1).toNat = s.rn.toNat + 1 := BitVec.toNat_add_of_lt (by
      show s.rn.toNat + 1 < 2 ^ 32
      omega)
    have length : (s.appendRecord r).res.length = s.res.length := List.length_set
    have records : (s.appendRecord r).records = s.records ++ [r] := by
      rw [State.records, State.appendRecord_rn, State.appendRecord_res, next, List.take_add_one,
        List.take_set_of_le le_rfl, List.getElem?_set_self (by omega)]
      rfl
    obtain ⟨h1, h2, h3⟩ := ih (s := s.appendRecord r) (by rw [State.appendRecord_rn, next, length]; omega)
      (by rw [length]; exact small)
    rw [List.foldl_cons, h1, h2, h3, records, State.appendRecord_rn, next, length, List.length_cons]
    exact ⟨by simp, by omega, rfl⟩

/-! #### The stores after a match -/

/-- What a search never changes of a slot; also its entry in the document's index (43_targetindex.md R153). -/
def Slot.pair (t : Slot) : Word × Word := (t.hash, t.trim)

/-- The match changes no hash and no trim (R174). -/
theorem matchStep_slots_pair (s : State) : s.matchStep.slots.map Slot.pair = s.allocated.map Slot.pair := by
  have kept := matchSlots_slots s.cfg s.dig.bytes (s.dig.leadHash s.cfg) s.allocated
  refine (List.forall₂_eq_eq_eq ▸ List.forall₂_map_left_iff.2 (List.forall₂_map_right_iff.2 (kept.imp ?_)) :
    s.allocated.map Slot.pair = s.matchStep.slots.map Slot.pair).symm
  rintro t t' ⟨hash, trim, -⟩
  exact Prod.ext hash.symm trim.symm

theorem matchStep_slots_hash (s : State) : s.matchStep.slots.map Slot.hash = s.allocated.map Slot.hash := by
  have hashes := congrArg (List.map Prod.fst) (matchStep_slots_pair s)
  rwa [List.map_map, List.map_map] at hashes

theorem matchStep_slots_length (s : State) : s.matchStep.slots.length = s.allocated.length := matchSlots_slots_length _ _ _ _

/-- The records of a match are those of some of the pending slots, in slot order. -/
theorem exists_matchStep_records (s : State) : ∃ ts : List Slot, ts.Sublist s.allocated ∧ (∀ t ∈ ts, t.pend = true) ∧
    s.matchStep.records = ts.map (keyRecord s.dig.bytes (s.dig.leadHash s.cfg)) := by
  obtain ⟨n, -, -, records⟩ := exists_matchSlots_eq s.cfg s.dig.bytes (s.dig.leadHash s.cfg) s.allocated
  refine ⟨_, List.filter_sublist.trans (List.take_sublist n _), fun t ht => ?_, records⟩
  exact Slot.pend_of_matched (List.mem_filter.1 ht).2

/-- A resolved slot passes the match untouched. -/
theorem mem_matchStep_slots_of_resolved {s : State} {t : Slot} (ht : t ∈ s.allocated) (done : t.pend = false) :
    t ∈ s.matchStep.slots := by
  obtain ⟨j, hj⟩ := List.mem_iff_getElem?.1 ht
  have step := matchSlots_slots_advance s.cfg s.dig.bytes (s.dig.leadHash s.cfg) s.allocated j
  rw [hj] at step
  generalize after : (matchSlots s.cfg s.dig.bytes (s.dig.leadHash s.cfg) s.allocated).slots[j]? = o at step
  cases step with
  | same => exact List.mem_of_getElem? after
  | resolved pending => cases done.symm.trans pending

section
variable {s : State} (good : s.StoresGood)
include good

theorem applyMatch_allocated : (s.applyMatch s.matchStep).allocated = s.matchStep.slots := by
  have tn : (s.applyMatch s.matchStep).tn = s.tn := by
    rw [applyMatch_eq]
    rfl
  rw [State.allocated, tn, applyMatch_tgt]
  exact List.take_left' ((matchStep_slots_length s).trans good.allocated_length)

/-- What the match leaves in the result FIFO. -/
theorem applyMatch_records : (s.applyMatch s.matchStep).records = s.records ++ s.matchStep.records ∧
    (s.applyMatch s.matchStep).rn.toNat = s.rn.toNat + s.matchStep.records.length ∧
    (s.applyMatch s.matchStep).res.length = s.res.length := by
  obtain ⟨ts, sub, pending, records⟩ := exists_matchStep_records s
  have room := good.rn_add_length_le sub pending
  have tn := good.tn_le
  have length := good.res_length
  refine appendRecords_spec (s := s.setTargets _ s.tn) ?_ ?_
  · rw [records, List.length_map, State.setTargets_rn, State.setTargets_res]
    omega
  · rw [State.setTargets_res, length]
    exact s.cfg.tgtCap.isLt

/-- A record of the match is good output: its key passed the check and its slot is resolved (R174, R175). -/
theorem recordGood_of_mem_matchStep (legal : s.dig.legal) {r : Record} (hr : r ∈ s.matchStep.records) :
    (s.applyMatch s.matchStep).RecordGood r := by
  obtain ⟨j, t, ht, pending, valid, hash, rfl, ht'⟩ := exists_slot_of_mem_matchSlots_records hr
  exact {
    key_length := rfl
    key_last := rfl
    key_alpha := fun b hb => inAlpha_candidateKey legal valid (recordOf_key_take .. ▸ hb)
    key_hash := by rw [recordOf_key_take, (sameChannel_applyMatch s _).cfg, hash]; rfl
    resolved := ⟨{ t with pend := false }, by rw [applyMatch_allocated good]; exact List.mem_of_getElem? ht', rfl, rfl⟩ }

/-- The match keeps the stores in order. -/
theorem State.StoresGood.applyMatch (legal : s.dig.legal) : (s.applyMatch s.matchStep).StoresGood := by
  have cfg := (sameChannel_applyMatch s s.matchStep).cfg
  have allocated := applyMatch_allocated good
  obtain ⟨records, rn, res⟩ := applyMatch_records good
  obtain ⟨ts, sub, pending, found⟩ := exists_matchStep_records s
  have tn : (s.applyMatch s.matchStep).tn = s.tn := by
    rw [applyMatch_eq]
    rfl
  exact {
    tgt_length := by
      rw [applyMatch_tgt, List.length_append, matchStep_slots_length, good.allocated_length, List.length_drop, cfg,
        good.tgt_length]
      have := good.tn_le
      omega
    res_length := by rw [res, cfg, good.res_length]
    tn_le := by rw [tn, cfg]; exact good.tn_le
    rn_le := by
      rw [rn, cfg, found, List.length_map]
      exact (good.rn_add_length_le sub pending).trans good.tn_le
    trims := fun t ht => by
      rw [allocated] at ht
      obtain ⟨t', ht', same⟩ := List.mem_map.1 (matchStep_slots_pair s ▸ List.mem_map_of_mem ht)
      obtain ⟨hash, trim⟩ := Prod.mk.inj same
      rw [cfg, ← hash, ← trim]
      exact good.trims t' ht'
    hashes_distinct := by rw [allocated, matchStep_slots_hash]; exact good.hashes_distinct
    records_good := fun r hr => by
      rw [records] at hr
      obtain hr | hr := List.mem_append.1 hr
      · exact (good.records_good r hr).of_resolved cfg fun sl hsl done =>
          allocated ▸ mem_matchStep_slots_of_resolved hsl done
      · exact recordGood_of_mem_matchStep good legal hr
    records_distinct := by
      rw [records, found, List.map_append, List.map_map]
      exact good.nodup_records_append sub pending }

end

/-! #### The invariants along a search (10_state.md R34) -/

theorem applyMatch_dig (s : State) (r : MatchResult) : (s.applyMatch r).dig = s.dig := by
  rw [applyMatch_eq]
  rfl

/-- Step 5 writes no store. -/
theorem State.StoresGood.endStep {s : State} (good : s.StoresGood) : s.endStep.StoresGood := by
  obtain ⟨-, e⟩ | ⟨-, -, e⟩ | ⟨d, -, -, e⟩ := endStep_cases s <;> rw [e] <;> exact good.congr rfl rfl rfl rfl rfl

/-- The search writes neither a cursor nor the buffer. -/
theorem State.CursorsGood.of_frame {s u : State} (good : s.CursorsGood) (frame : SearchFrame s u) : u.CursorsGood := by
  unfold SearchFrame at frame
  rw [frame]
  exact { good with }

/-- Every completed step counts one leading part. -/
theorem advance_pcnt_eq (s : State) : s.advance.pcnt = s.pcnt + 1 := by
  have same : (s.applyMatch s.matchStep).pcnt = s.pcnt := by
    rw [applyMatch_eq]
    rfl
  rw [State.advance]
  obtain ⟨-, e⟩ | ⟨-, -, e⟩ | ⟨d, -, -, e⟩ := endStep_cases (s.applyMatch s.matchStep) <;> rw [e, ← same] <;> rfl

/-- How a step of a search in progress ends (R176): with `FE`, with `FX` on the last leading part, or on the next leading part. -/
inductive StepEnds (s : State) : State → Prop where
  | emptied {u : State} (zero : u.pendingCount = 0) (run : u.run = false) (fe : u.fe = true) (fx : u.fx = false)
      (dig : u.dig = s.dig) : StepEnds s u
  | exhausted {u : State} (pending : 0 < u.pendingCount) (last : s.dig.next? = none) (run : u.run = false) (fe : u.fe = false)
      (fx : u.fx = true) (dig : u.dig = s.dig) : StepEnds s u
  | moved {u : State} (pending : 0 < u.pendingCount) (next : s.dig.next? = some u.dig) (run : u.run = true) (fe : u.fe = false)
      (fx : u.fx = false) : StepEnds s u

section
variable {s : State} (inv : s.Inv) (running : s.run = true)
include inv running

theorem stepEnds_advance : StepEnds s s.advance := by
  obtain ⟨-, fe, fx, -⟩ := inv.running running
  have fe' : (s.applyMatch s.matchStep).fe = false := by rw [applyMatch_eq]; exact fe
  have fx' : (s.applyMatch s.matchStep).fx = false := by rw [applyMatch_eq]; exact fx
  have run' := (applyMatch_run s s.matchStep).trans running
  have dig := applyMatch_dig s s.matchStep
  rw [State.advance]
  obtain ⟨none, e⟩ | ⟨some, last, e⟩ | ⟨d, some, next, e⟩ := endStep_cases (s.applyMatch s.matchStep) <;> rw [e]
  · exact .emptied none rfl rfl fx' dig
  · exact .exhausted some (dig ▸ last) rfl fe' rfl dig
  · exact .moved some (dig ▸ next) run' fe' fx'

/-- A search in progress has not counted all leading parts yet (R34 line 6). -/
theorem pcnt_lt_of_running : s.pcnt.toNat < 94 ^ 8 := by
  rw [inv.progress running]
  exact Odometer.index_lt inv.digits_le

theorem advance_pcnt : s.advance.pcnt.toNat = s.pcnt.toNat + 1 := by
  have small := pcnt_lt_of_running inv running
  rw [advance_pcnt_eq]
  exact BitVec.toNat_add_of_lt (show s.pcnt.toNat + 1 < 2 ^ 64 by omega)

theorem State.Inv.advance : s.advance.Inv := by
  refine .of_parts (inv.stores.applyMatch inv.digits_le).endStep (inv.cursors.of_frame (searchFrame_advance s)) ?_
  have fault : s.advance.fault = false := by
    rw [searchFrame_advance s]
    exact (inv.running running).2.2.2
  have counted := advance_pcnt inv running
  cases stepEnds_advance inv running with
  | emptied none run fe fx dig =>
    have ended : s.advance.run ≠ true := by simp [run]
    exact ⟨dig ▸ inv.digits_le, fun h => absurd h ended, by rw [fx, Bool.and_false], fun h => absurd h ended⟩
  | exhausted some last run fe fx dig =>
    have ended : s.advance.run ≠ true := by simp [run]
    exact ⟨dig ▸ inv.digits_le, fun h => absurd h ended, by rw [fe, Bool.false_and], fun h => absurd h ended⟩
  | moved some next run fe fx =>
    refine ⟨Odometer.legal_of_next? inv.digits_le next, fun _ => ⟨some, fe, fx, fault⟩, by rw [fe, Bool.false_and], fun _ => ?_⟩
    rw [counted, inv.progress running, Odometer.index_of_next? inv.digits_le next]

/-- A failed check ends the search with what the earlier slots gave (R175). -/
theorem State.Inv.latched : (s.applyMatch s.matchStep).latchFault.Inv := by
  have frame := searchFrame_applyMatch s s.matchStep
  have cursors := inv.cursors.of_frame frame
  obtain ⟨-, fe, -, -⟩ := inv.running running
  refine .of_parts ((inv.stores.applyMatch inv.digits_le).congr rfl rfl rfl rfl rfl) { cursors with } ⟨?_, nofun, ?_, nofun⟩
  · rw [State.latchFault_dig, applyMatch_dig]
    exact inv.digits_le
  · rw [applyMatch_eq, State.latchFault_fe, State.setResults_fe, State.setTargets_fe, fe, Bool.false_and]

end

theorem Searched.inv {s u : State} {k : Nat} (h : Searched s k u) (inv : s.Inv) : u.Inv :=
  h.preserves inv fun _ hv running _ => hv.advance running

theorem LoopEnds.inv {s u : State} {st : Status} {n k : Nat} (h : LoopEnds s n u st k) (inv : s.Inv) : u.Inv := by
  cases h with
  | completed reached => exact reached.inv inv
  | violated reached _ running => exact (reached.inv inv).latched running

/-! #### The invariants and the other commands -/

/-- The accumulator and the command channel are in no line of the invariants. -/
theorem State.Inv.of_same {s t : State} (inv : s.Inv)
    (e : t = { s with h := t.h, hv := t.hv, cmds := t.cmds, rsps := t.rsps }) : t.Inv := by
  rw [e]
  exact .of_parts (inv.stores.congr rfl rfl rfl rfl rfl) { inv.cursors with } { inv.search with }

theorem Odometer.legal_zero : Odometer.zero.legal := by
  unfold Odometer.legal
  decide

theorem Odometer.index_zero : Odometer.zero.index = 0 := by
  rw [Odometer.index_eq_digitsNumber]
  decide

/-- Settles O59: every store is empty, every cursor 0 and no search in progress. -/
theorem invariantsHoldAtReset : Obligations.InvariantsHoldAtReset := by
  unfold Obligations.InvariantsHoldAtReset
  intro c
  have empty : (State.resetWith c).allocated = [] := rfl
  have none : (State.resetWith c).records = [] := rfl
  exact .of_parts
    { tgt_length := List.length_replicate
      res_length := List.length_replicate
      tn_le := Nat.zero_le _
      rn_le := Nat.zero_le _
      trims := by rw [empty]; nofun
      hashes_distinct := by rw [empty]; exact .nil
      records_good := by rw [none]; nofun
      records_distinct := by rw [none]; exact .nil }
    ⟨Nat.zero_le _, Nat.zero_le _, rfl, nofun⟩
    ⟨Odometer.legal_zero, nofun, rfl, nofun⟩

section
variable {s : State}

/-- A new hash makes one more slot, with its trim, and no other slot changes. -/
theorem State.StoresGood.allocate (good : s.StoresGood) {hash : Word} (new : s.knows hash = false)
    (room : s.tn ≠ s.cfg.tgtCap) : (s.allocate hash).StoresGood := by
  have below : s.tn.toNat < s.cfg.tgtCap.toNat :=
    Nat.lt_of_le_of_ne good.tn_le fun full => room (BitVec.eq_of_toNat_eq full)
  have slots := State.allocate_allocated good.tgt_length below hash
  have next : (s.tn + 1).toNat = s.tn.toNat + 1 := BitVec.toNat_add_of_lt (Nat.lt_of_le_of_lt below s.cfg.tgtCap.isLt)
  have unknown : ∀ t ∈ s.allocated, t.hash ≠ hash := by
    simpa [State.knows] using new
  exact { good with
    tgt_length := List.length_set.trans good.tgt_length
    tn_le := next ▸ below
    trims := by
      rw [slots]
      exact List.forall_mem_append.2 ⟨good.trims, by simp⟩
    hashes_distinct := by
      rw [slots, List.map_append]
      refine List.Nodup.append good.hashes_distinct (List.nodup_singleton _) fun h old fresh => ?_
      obtain ⟨t, ht, rfl⟩ := List.mem_map.1 old
      exact unknown t ht (List.mem_singleton.1 fresh)
    records_good := fun r hr =>
      (good.records_good r hr).of_resolved rfl fun sl hsl _ => slots ▸ List.mem_append_left _ hsl }

/-- With the FIFO emptied no line speaks of a record. -/
theorem State.StoresGood.clearRecords (good : s.StoresGood) : (s.setResults s.res 0).StoresGood := by
  have none : (s.setResults s.res 0).records = [] := rfl
  exact { good with
    rn_le := Nat.zero_le _
    records_good := by rw [none]; nofun
    records_distinct := by rw [none]; exact .nil }

/-- With both stores emptied no line speaks of a slot either. -/
theorem State.StoresGood.clearAll (good : s.StoresGood) : ((s.setTargets s.tgt 0).setResults s.res 0).StoresGood := by
  have none : ((s.setTargets s.tgt 0).setResults s.res 0).records = [] := rfl
  have empty : ((s.setTargets s.tgt 0).setResults s.res 0).allocated = [] := rfl
  exact { good with
    tn_le := Nat.zero_le _
    rn_le := Nat.zero_le _
    trims := by rw [empty]; nofun
    hashes_distinct := by rw [empty]; exact .nil
    records_good := by rw [none]; nofun
    records_distinct := by rw [none]; exact .nil }

theorem State.StoresGood.popped (good : s.StoresGood) (nonempty : s.rn ≠ 0) : s.popped.StoresGood := by
  have fits : s.rn.toNat ≤ s.res.length := good.res_length ▸ good.rn_le
  have pos : 0 < s.rn.toNat := by bv_omega
  have fewer : (s.rn - 1).toNat = s.rn.toNat - 1 := by bv_omega
  have records := State.popped_records nonempty fits
  exact { good with
    res_length := (length_shiftRecords pos fits).trans good.res_length
    rn_le := by
      show (s.rn - 1).toNat ≤ _
      rw [fewer]
      exact (Nat.sub_le _ _).trans good.rn_le
    records_good := fun r hr =>
      (good.records_good r (List.mem_of_mem_tail (records ▸ hr))).of_resolved rfl fun sl hsl _ => hsl
    records_distinct := by
      rw [records, List.map_tail]
      exact good.records_distinct.tail }

end

/-- Each command that writes, part by part: the parts it does not write are as they were. -/
theorem Effect.inv {s u : State} {i : Instr} {st : Status} {d : Word} (h : Effect s i u st d) (inv : s.Inv) : u.Inv := by
  have cap := s.cfg.msgCap.isLt
  cases h with
  | refused | raised | answered => exact inv
  | hinit | hchunk | htail | hfin => exact inv.of_same rfl
  | mseta below =>
    exact .of_parts (inv.stores.congr rfl rfl rfl rfl rfl) { inv.cursors with ma_le := below.le } { inv.search with }
  | mwr8 inside =>
    refine .of_parts (inv.stores.congr rfl rfl rfl rfl rfl) { inv.cursors with
      ma_le := (toNat_ma_add inside).trans_le inside
      msg_wf := memWrite1_wf inv.msg_wf _ _
      msg_inside := Memory.write_inside _ inv.msg_inside inside } { inv.search with }
  | mwr64 inside =>
    refine .of_parts (inv.stores.congr rfl rfl rfl rfl rfl) { inv.cursors with
      ma_le := (toNat_ma_add inside).trans_le inside
      msg_wf := memWrite8_wf inv.msg_wf _ _
      msg_inside := Memory.writeBytes_inside _ inv.msg_inside inside } { inv.search with }
  | mrd8 inside =>
    exact .of_parts (inv.stores.congr rfl rfl rfl rfl rfl)
      { inv.cursors with ma_le := (toNat_ma_add inside).trans_le inside } { inv.search with }
  | mrd64 inside =>
    exact .of_parts (inv.stores.congr rfl rfl rfl rfl rfl)
      { inv.cursors with ma_le := (toNat_ma_add inside).trans_le inside } { inv.search with }
  | arst =>
    exact .of_parts (inv.stores.congr rfl rfl rfl rfl rfl) { inv.cursors with ac_le := Nat.zero_le _ } { inv.search with }
  | anext below =>
    have next : (s.ac + 1).toNat = s.ac.toNat + 1 := BitVec.toNat_add_of_lt (show s.ac.toNat + 1 < 2 ^ 7 by omega)
    exact .of_parts (inv.stores.congr rfl rfl rfl rfl rfl) { inv.cursors with ac_le := next.trans_le below } { inv.search with }
  | tins idle new room =>
    have ended {p : Prop} (running : s.run = true) : p := absurd (running.symm.trans idle) (by decide)
    exact .of_parts (inv.stores.allocate new room) { inv.cursors with }
      { inv.search with running := fun h => ended h, progress := fun h => ended h }
  | tclr idle =>
    have ended {p : Prop} (running : s.run = true) : p := absurd (running.symm.trans idle) (by decide)
    exact .of_parts (inv.stores.clearAll.congr rfl rfl rfl rfl rfl) { inv.cursors with }
      { inv.search with running := fun h => ended h, ends_exclusive := rfl, progress := fun h => ended h }
  | sstart clear idle =>
    refine .of_parts (inv.stores.clearRecords.congr rfl rfl rfl rfl rfl) { inv.cursors with }
      ⟨Odometer.legal_zero, fun begins => ?_, Bool.and_false _, fun _ => Odometer.index_zero.symm⟩
    have pending : 0 < s.pendingCount := of_decide_eq_true begins
    exact ⟨pending, congrArg (!·) begins, rfl, clear⟩
  | srun clear running ends => exact ends.inv inv
  | sstop =>
    exact .of_parts (inv.stores.congr rfl rfl rfl rfl rfl) { inv.cursors with }
      { inv.search with running := nofun, ends_exclusive := rfl, progress := nofun }
  | rpop nonempty => exact .of_parts (inv.stores.popped nonempty) { inv.cursors with } { inv.search with }
  | reset => exact (invariantsHoldAtReset s.cfg).of_same rfl

theorem State.Inv.exec {s t : State} {i : Instr} (inv : s.Inv) (h : exec i s = .next t) : t.Inv := by
  obtain ⟨u, st, d, eff, rfl⟩ := exists_effect_of_exec h
  exact (eff.inv inv).of_same rfl

/-- What a step is: nothing without a word, else the taken word's command or the answer to an illegal one. -/
theorem step_cases {s t : State} (h : step s = .next t) :
    t = s ∨ ∃ rest, t = (s.setCmds rest).raise .eIllegal ∨ ∃ i, exec i (s.setCmds rest) = .next t := by
  cases hs : s.cmds with
  | nil => exact .inl (Host.Outcome.next.inj ((stepRunsTheDecodedCommand.2 s hs).symm.trans h)).symm
  | cons w rest =>
    refine .inr ⟨rest, ?_⟩
    cases hw : decode w with
    | error e => exact .inl (Host.Outcome.next.inj ((step_of_decode_error hs hw).symm.trans h)).symm
    | ok i => exact .inr ⟨i, (step_of_decode_ok hs hw).symm.trans h⟩

/-- Settles O60: the effect of each command keeps each part of the invariants. -/
theorem everyStepKeepsTheInvariants : Obligations.EveryStepKeepsTheInvariants := by
  unfold Obligations.EveryStepKeepsTheInvariants
  intro s t inv h
  obtain rfl | ⟨rest, rfl | ⟨i, h⟩⟩ := step_cases h
  · exact inv
  · exact inv.of_same rfl
  · exact (inv.of_same (t := s.setCmds rest) rfl).exec h

end Sys2Proof.Machine
end

/-! ### The search with a correct inverse (44_searcher.md R175, R184; 91_not_in_source.md N23) -/

section
namespace Sys2Proof.Machine

/-- Every slot passes its check, so that the match is a map and a filter. -/
theorem matchStep_of_minvCorrect {s : State} (trims : ∀ t ∈ s.allocated, t.trim = invertTrailingMix s.cfg t.hash)
    (hc : s.cfg.MinvCorrect) :
    s.matchStep = ⟨s.allocated.map (Slot.resolve (s.dig.leadHash s.cfg)),
      (s.allocated.filter (Slot.matched (s.dig.leadHash s.cfg))).map (keyRecord s.dig.bytes (s.dig.leadHash s.cfg)), false⟩ :=
  matchSlots_of_passes fun t ht => Slot.passes_of_minvCorrect hc s.dig (trims t ht)

theorem Searched.cfg {s u : State} {k : Nat} (h : Searched s k u) : u.cfg = s.cfg :=
  (congrArg State.cfg h.frame).trans rfl

section
variable {s u : State} (inv : s.Inv) (hc : s.cfg.MinvCorrect)
include inv hc

theorem matchStep_passed : s.matchStep.violated = false := by
  rw [matchStep_of_minvCorrect inv.trims hc]

/-- The loop of `SRUN` ends without a failed check. -/
theorem LoopEnds.completed_of_minvCorrect {st : Status} {n k : Nat} (h : LoopEnds s n u st k) :
    st = .ok ∧ k ≤ n ∧ Searched s k u ∧ (k < n → u.run = false) := by
  cases h with
  | completed reached le ended => exact ⟨rfl, le, reached, ended⟩
  | violated reached _ _ failed =>
    have passed := matchStep_passed (reached.inv inv) (reached.cfg ▸ hc)
    cases passed.symm.trans failed

theorem Effect.fault_of_minvCorrect {i : Instr} {st : Status} {d : Word} (h : Effect s i u st d) (latched : u.fault = true) :
    s.fault = true := by
  cases h with
  | srun clear running ends =>
    obtain ⟨-, -, reached, -⟩ := ends.completed_of_minvCorrect inv hc
    exact reached.fault.symm.trans latched
  | reset => cases latched
  | _ => exact latched

end

/-- Settles O43: only a failed check sets the latch, and with a correct inverse no check fails. -/
theorem correctInverseNeverFaults : Obligations.CorrectInverseNeverFaults := by
  unfold Obligations.CorrectInverseNeverFaults
  intro s t inv hc h latched
  obtain rfl | ⟨rest, rfl | ⟨i, h⟩⟩ := step_cases h
  · exact latched
  · exact latched
  · obtain ⟨u, st, d, eff, rfl⟩ := exists_effect_of_exec h
    exact eff.fault_of_minvCorrect (s := s.setCmds rest) (inv.of_same rfl) hc latched

/-! #### One step, and how many there are (R176, R180) -/

section
variable {s : State} (inv : s.Inv) (hc : s.cfg.MinvCorrect)
include inv hc

theorem advance_tgt :
    s.advance.tgt = s.allocated.map (Slot.resolve (s.dig.leadHash s.cfg)) ++ s.tgt.drop s.tn.toNat := by
  rw [State.advance, endStep_tgt, applyMatch_tgt, matchStep_of_minvCorrect inv.trims hc]

theorem advance_allocated : s.advance.allocated = s.allocated.map (Slot.resolve (s.dig.leadHash s.cfg)) := by
  have tn : s.advance.tn = s.tn := (congrArg State.tn (searchFrame_advance s)).trans rfl
  rw [State.allocated, tn, advance_tgt inv hc]
  exact List.take_left' (by rw [List.length_map, inv.stores.allocated_length])

theorem advance_records : s.advance.records = s.records ++
    (s.allocated.filter (Slot.matched (s.dig.leadHash s.cfg))).map (keyRecord s.dig.bytes (s.dig.leadHash s.cfg)) := by
  have same : s.advance.records = (s.applyMatch s.matchStep).records := by
    rw [State.advance]
    obtain ⟨-, e⟩ | ⟨-, -, e⟩ | ⟨d, -, -, e⟩ := endStep_cases (s.applyMatch s.matchStep) <;> rw [e] <;> rfl
  rw [same, (applyMatch_records inv.stores).1, matchStep_of_minvCorrect inv.trims hc]

end

/-- Settles O39: the step completes, and its three ends are those of `StepEnds`. -/
theorem oneSearchStepResolvesExactlyTheValidCandidates : Obligations.OneSearchStepResolvesExactlyTheValidCandidates := by
  unfold Obligations.OneSearchStepResolvesExactlyTheValidCandidates
  intro s inv hc running x p hit resolve
  obtain ⟨-, -, -, clear⟩ := inv.running running
  have once : Searched s 1 s.advance := .step .start running (matchStep_passed inv hc)
  have lead : s.dig.leadHash s.cfg = p := s.dig.leadHash_eq s.cfg
  have hits : Slot.matched p = hit := funext fun sl => sl.matched_eq p
  have resolves : Slot.resolve p = resolve := funext fun sl => by rw [Slot.resolve, hits]
  have tgt := advance_tgt inv hc
  have records := advance_records inv hc
  rw [lead, resolves] at tgt
  rw [lead, hits] at records
  have ends : LoopEnds s (1 : Word).toNat s.advance .ok 1 := .completed once (by decide) fun lt => absurd lt (by decide)
  refine ⟨s.advance.answer .ok 1, exec_srun_of_loopEnds clear running ends, ?_, records, ?_⟩
  · rw [State.allocated] at tgt
    rw [← tgt, ← advance_pcnt_eq]
    exact (congrArg (State.answer · .ok 1) (searchFrame_advance s)).trans rfl
  · rw [State.answer_pendingCount, State.answer_run, State.answer_fe, State.answer_fx, State.answer_dig]
    cases stepEnds_advance inv running with
    | emptied zero run fe fx dig =>
      rw [if_pos zero]
      exact ⟨run, fe, fx, dig⟩
    | exhausted pending last run fe fx dig =>
      rw [if_neg pending.ne', if_pos (s.dig.next?_eq_none_iff.1 last)]
      exact ⟨run, fe, fx, dig⟩
    | moved pending next run fe fx =>
      have notLast : s.dig.digits ≠ List.replicate 8 93 := fun last => by
        cases (s.dig.next?_eq_none_iff.2 last).symm.trans next
      rw [if_neg pending.ne', if_neg notLast]
      exact ⟨run, fe, fx, Odometer.index_of_next? inv.digits_le next⟩

theorem Searched.pcnt {s u : State} {k : Nat} (h : Searched s k u) (inv : s.Inv) : u.pcnt.toNat = s.pcnt.toNat + k := by
  induction h with
  | start => rfl
  | step before running _ ih => rw [advance_pcnt (before.inv inv) running, ih, Nat.add_assoc]

/-- Settles O40: the loop of `SRUN`, whose steps `PCNT` counts. -/
theorem srunExecutesUpToItsCount : Obligations.SrunExecutesUpToItsCount := by
  unfold Obligations.SrunExecutesUpToItsCount
  intro n s clear
  refine ⟨rfl, fun idle => exec_srun_of_idle clear idle n, fun running => exec_srun_of_running clear running 0,
    fun running inv hc => ?_⟩
  obtain ⟨u, st, k, ends⟩ := LoopEnds.exists_of n.toNat s
  obtain ⟨rfl, le, reached, ended⟩ := ends.completed_of_minvCorrect inv hc
  have count : (BitVec.ofNat 64 k).toNat = k := Nat.mod_eq_of_lt (le.trans_lt n.isLt)
  refine ⟨_, BitVec.ofNat 64 k, exec_srun_of_loopEnds clear running ends, ?_, ?_, ?_, ?_⟩
  · exact (congrArg (State.answer · .ok (BitVec.ofNat 64 k)) reached.frame).trans rfl
  · rw [count]
    exact le
  · rw [count]
    exact reached.pcnt inv
  · rw [count]
    exact ended

/-! #### A search ends (R184) -/

/-- The search is in progress, or has ended with `FE` and nothing pending, or with `FX`, something pending and all leading parts
examined. -/
inductive SearchStands (s : State) : Prop where
  | searching (run : s.run = true)
  | emptied (run : s.run = false) (fe : s.fe = true) (fx : s.fx = false) (zero : s.pendingCount = 0)
      (counted : s.pcnt.toNat ≤ 94 ^ 8)
  | exhausted (run : s.run = false) (fe : s.fe = false) (fx : s.fx = true) (pending : 0 < s.pendingCount)
      (counted : s.pcnt.toNat = 94 ^ 8)

theorem searchStands_advance {s : State} (inv : s.Inv) (running : s.run = true) : SearchStands s.advance := by
  have counted := advance_pcnt inv running
  cases stepEnds_advance inv running with
  | emptied zero run fe fx => exact .emptied run fe fx zero (counted ▸ pcnt_lt_of_running inv running)
  | exhausted pending last run fe fx =>
    exact .exhausted run fe fx pending (by rw [counted, inv.progress running, Odometer.index_of_last last])
  | moved _ _ run => exact .searching run

theorem Searched.stands {s u : State} {k : Nat} (h : Searched s k u) (inv : s.Inv) (running : s.run = true) :
    SearchStands u := by
  cases h with
  | start => exact .searching running
  | step before running => exact searchStands_advance (before.inv inv) running

/-- With as many steps as there are leading parts the search is over: it never counts more (R34 line 6). -/
theorem Searched.ended {s u : State} {k n : Nat} (h : Searched s k u) (inv : s.Inv) (enough : 94 ^ 8 ≤ n)
    (ended : k < n → u.run = false) : u.run = false := by
  by_cases done : k < n
  · exact ended done
  · refine Bool.eq_false_iff.2 fun running => ?_
    have small := pcnt_lt_of_running (h.inv inv) running
    have counted := h.pcnt inv
    omega

/-- What a complete `SRUN` is. -/
theorem exists_searched_of_exec_srun {n : Word} {s t : State} (inv : s.Inv) (hc : s.cfg.MinvCorrect) (running : s.run = true)
    (enough : 94 ^ 8 ≤ n.toNat) (h : exec (.srun n) s = .next t) :
    ∃ (k : Nat) (u : State), Searched s k u ∧ u.run = false ∧ t = u.answer .ok (BitVec.ofNat 64 k) := by
  obtain ⟨-, -, -, clear⟩ := inv.running running
  obtain ⟨u, st, k, ends⟩ := LoopEnds.exists_of n.toNat s
  obtain ⟨rfl, -, reached, ended⟩ := ends.completed_of_minvCorrect inv hc
  exact ⟨k, u, reached, reached.ended inv enough ended,
    Host.Outcome.next.inj (h.symm.trans (exec_srun_of_loopEnds clear running ends))⟩

/-- Settles O45: a search that is no longer in progress has ended in one of the two ways. -/
theorem searchEndsWithinAllPrefixes : Obligations.SearchEndsWithinAllPrefixes := by
  unfold Obligations.SearchEndsWithinAllPrefixes
  intro n s t inv hc running enough h
  obtain ⟨-, -, -, clear⟩ := inv.running running
  obtain ⟨k, u, reached, ended, rfl⟩ := exists_searched_of_exec_srun inv hc running enough h
  refine ⟨ended, reached.fault.trans clear, ?_⟩
  cases reached.stands inv running with
  | searching run => cases ended.symm.trans run
  | emptied _ fe fx zero counted => exact .inl ⟨fe, fx, zero, counted⟩
  | exhausted _ fe fx pending counted => exact .inr ⟨fe, fx, pending, counted⟩

/-! #### A failed check (R175, R229) -/

/-- The match that ends at slot `i`: the slots before it are resolved as they match. -/
theorem matchStep_of_fails {s : State} {i : Nat} {sl : Slot} (hsl : s.allocated[i]? = some sl)
    (h : sl.matched (s.dig.leadHash s.cfg) = true)
    (fails : forwardHash s.cfg (candidateKey s.dig.bytes (s.dig.leadHash s.cfg) sl) ≠ sl.hash)
    (pass : ∀ a ∈ s.allocated.take i, a.Passes s.cfg s.dig.bytes (s.dig.leadHash s.cfg)) :
    s.matchStep = ⟨(s.allocated.take i).map (Slot.resolve (s.dig.leadHash s.cfg)) ++ s.allocated.drop i,
      ((s.allocated.take i).filter (Slot.matched (s.dig.leadHash s.cfg))).map
        (keyRecord s.dig.bytes (s.dig.leadHash s.cfg)), true⟩ := by
  obtain ⟨hi, rfl⟩ := List.getElem?_eq_some_iff.1 hsl
  have split := matchSlots_append pass (s.allocated.drop i)
  rw [List.take_append_drop, List.drop_eq_getElem_cons hi, matchSlots_cons_of_fails h fails, List.append_nil,
    ← List.drop_eq_getElem_cons hi] at split
  exact split

/-- The slots before and behind slot `i`, allocated or not. -/
theorem allocated_split {s : State} {i : Nat} (hi : i ≤ s.tn.toNat) :
    s.allocated.take i = s.tgt.take i ∧ s.allocated.drop i ++ s.tgt.drop s.tn.toNat = s.tgt.drop i := by
  rw [State.allocated, List.take_take, Nat.min_eq_left hi]
  refine ⟨rfl, ?_⟩
  have behind : s.tgt.drop s.tn.toNat = (s.tgt.drop i).drop (s.tn.toNat - i) := by
    rw [List.drop_drop, Nat.add_sub_cancel' hi]
  rw [List.drop_take, behind, List.take_append_drop]

/-- The match writes three elements only. -/
theorem applyMatch_frame (s : State) (r : MatchResult) :
    s.applyMatch r = { s with tgt := (s.applyMatch r).tgt, res := (s.applyMatch r).res, rn := (s.applyMatch r).rn } := by
  rw [applyMatch_tgt]
  exact applyMatch_eq s r

/-- Settles O12: the loop over the slots passes those before slot `i` and ends at it, in the first step of the loop of `SRUN`. -/
theorem failedConsistencyCheckLatchesTheFault : Obligations.FailedConsistencyCheckLatchesTheFault := by
  unfold Obligations.FailedConsistencyCheckLatchesTheFault
  intro s n i sl inv running hn x p tail matched hsl hmatched fails passes
  obtain ⟨-, -, -, clear⟩ := inv.running running
  have lead : s.dig.leadHash s.cfg = p := s.dig.leadHash_eq s.cfg
  have hi : i ≤ s.tn.toNat := inv.stores.allocated_length ▸ (List.getElem?_eq_some_iff.1 hsl).1.le
  have result := matchStep_of_fails (s := s) hsl (by rw [lead]; exact hmatched) (by rw [lead]; exact fails)
    (by rw [lead]; exact passes)
  rw [lead] at result
  obtain ⟨before, behind⟩ := allocated_split hi
  have tgt : (s.applyMatch s.matchStep).tgt = (s.tgt.take i).map (Slot.resolve p) ++ s.tgt.drop i := by
    rw [applyMatch_tgt, result, List.append_assoc, behind, before]
  have records := (applyMatch_records inv.stores).1
  have ends : LoopEnds s n.toNat _ .eConsist 0 :=
    .violated .start (Nat.pos_of_ne_zero fun zero => hn (BitVec.eq_of_toNat_eq zero)) running (by rw [result])
  refine ⟨_, exec_srun_of_loopEnds clear running ends, ?_, ?_⟩
  · have resolved : (s.tgt.take i).map (Slot.resolve p) ++ s.tgt.drop i =
        (s.tgt.take i).map (fun a => { a with pend := a.pend && !matched a }) ++ s.tgt.drop i := rfl
    rw [← resolved, ← tgt]
    exact (congrArg (fun u => (u.latchFault).answer .eConsist 0) (applyMatch_frame s s.matchStep)).trans rfl
  · refine records.trans ?_
    rw [result]
    rfl

end Sys2Proof.Machine
end

/-! ### A complete search finds the least preimage (44_searcher.md R186)

One slot is followed through the search: it waits while no examined leading part completes it, and is found at the first that does. -/

section
namespace Sys2Proof.Machine

/-- Different legal digits have different numbers (R171). -/
theorem digitsNumber_inj {ds es : List (BitVec 7)} (len : ds.length = es.length) (hds : ∀ x ∈ ds, x.toNat ≤ 93)
    (hes : ∀ x ∈ es, x.toNat ≤ 93) (h : digitsNumber ds = digitsNumber es) : ds = es := by
  induction ds generalizing es with
  | nil => exact (List.length_eq_zero_iff.1 len.symm).symm
  | cons d ds ih =>
    cases es with
    | nil => cases len
    | cons e es =>
      obtain ⟨-, hds'⟩ := List.forall_mem_cons.1 hds
      obtain ⟨-, hes'⟩ := List.forall_mem_cons.1 hes
      replace len : ds.length = es.length := Nat.succ.inj len
      obtain below | same | above := Nat.lt_trichotomy d.toNat e.toNat
      · exact absurd h (digitsNumber_cons_lt len hds' below).ne
      · rw [digitsNumber, digitsNumber, len, same] at h
        rw [BitVec.eq_of_toNat_eq same, ih len hds' hes' (Nat.add_left_cancel h)]
      · exact absurd h (digitsNumber_cons_lt len.symm hes' above).ne'

theorem Odometer.eq_of_index {o o' : Odometer} (legal : o.legal) (legal' : o'.legal) (h : o.index = o'.index) : o = o' := by
  rw [Odometer.index_eq_digitsNumber, Odometer.index_eq_digitsNumber] at h
  have digits := digitsNumber_inj (ds := o.digits) (es := o'.digits) rfl legal legal' h
  cases o
  cases o'
  simpa [Odometer.digits] using digits

/-- Among slots with different hashes one slot alone has its hash. -/
theorem filter_hash_eq {l : List Slot} (distinct : (l.map Slot.hash).Nodup) {sl : Slot} (h : sl ∈ l) :
    l.filter (fun t => t.hash == sl.hash) = [sl] := by
  induction l with
  | nil => cases h
  | cons t l ih =>
    obtain ⟨new, distinct⟩ := List.nodup_cons.1 distinct
    obtain rfl | h := List.mem_cons.1 h
    · have others : l.filter (fun t => t.hash == sl.hash) = [] := by
        refine List.filter_eq_nil_iff.2 fun t ht same => new ?_
        exact List.mem_map.2 ⟨t, ht, beq_iff_eq.1 same⟩
      rw [List.filter_cons_of_pos (p := fun t : Slot => t.hash == sl.hash) (beq_self_eq_true _), others]
    · have other : ¬ (t.hash == sl.hash) = true := fun same => new (beq_iff_eq.1 same ▸ List.mem_map_of_mem h)
      rw [List.filter_cons_of_neg (p := fun t : Slot => t.hash == sl.hash) other, ih distinct h]

/-- Of the records that a choice of slots leaves, those with the hash of one slot are its own. -/
theorem filter_records_of_slot {l : List Slot} (distinct : (l.map Slot.hash).Nodup) {sl : Slot} (h : sl ∈ l)
    (chosen : Slot → Bool) (x : List Byte) (p : Word) :
    ((l.filter chosen).map (keyRecord x p)).filter (fun r => r.hash == sl.hash) =
      if chosen sl = true then [keyRecord x p sl] else [] := by
  have hashes : (fun r : Record => r.hash == sl.hash) ∘ keyRecord x p = fun t => t.hash == sl.hash := rfl
  rw [List.filter_map, hashes, List.filter_comm, filter_hash_eq distinct h, List.filter_singleton]
  cases chosen sl <;> rfl

/-- How a slot `sl` that is pending at first, at index `j`, stands in the course of a search. -/
inductive SlotStands (c : Params) (j : Nat) (sl : Slot) (v : State) : Prop where
  /-- No leading part examined so far completes it. -/
  | waiting (slot : v.allocated[j]? = some sl) (missed : ∀ o : Odometer, o.legal → o.index < v.pcnt.toNat → ¬ sl.hitBy c o)
      (records : v.records.filter (fun r => r.hash == sl.hash) = [])
  /-- The least leading part that completes it has been examined. -/
  | found {o : Odometer} (first : sl.FirstHit c o) (slot : v.allocated[j]? = some { sl with pend := false })
      (records : v.records.filter (fun r => r.hash == sl.hash) = [keyRecord o.bytes (o.leadHash c) sl])

section
variable {v : State} {j : Nat} {sl : Slot} (inv : v.Inv) (hc : v.cfg.MinvCorrect)
include inv hc

theorem advance_getElem? {t : Slot} (slot : v.allocated[j]? = some t) :
    v.advance.allocated[j]? = some (t.resolve (v.dig.leadHash v.cfg)) := by
  rw [advance_allocated inv hc, List.getElem?_map, slot]
  rfl

theorem advance_records_filter {t : Slot} (slot : v.allocated[j]? = some t) :
    v.advance.records.filter (fun r => r.hash == t.hash) = v.records.filter (fun r => r.hash == t.hash) ++
      if t.matched (v.dig.leadHash v.cfg) = true then [keyRecord v.dig.bytes (v.dig.leadHash v.cfg) t] else [] := by
  rw [advance_records inv hc, List.filter_append,
    filter_records_of_slot inv.hashes_distinct (List.mem_of_getElem? slot)]

/-- One step of the search, seen from the slot. -/
theorem SlotStands.advance (running : v.run = true) (pending : sl.pend = true) (h : SlotStands v.cfg j sl v) :
    SlotStands v.cfg j sl v.advance := by
  have counted := advance_pcnt inv running
  have stands := inv.progress running
  cases h with
  | waiting slot missed records =>
    have slot' := advance_getElem? inv hc slot
    have records' := advance_records_filter inv hc slot
    have hit : sl.matched (v.dig.leadHash v.cfg) = true ↔ sl.hitBy v.cfg v.dig := by
      rw [Slot.matched_eq, pending, Bool.true_and]
      rfl
    by_cases h : sl.hitBy v.cfg v.dig
    · rw [Slot.resolve_of_matched (hit.2 h)] at slot'
      rw [records, if_pos (hit.2 h), List.nil_append] at records'
      refine .found ⟨inv.digits_le, h, fun o legal completes => ?_⟩ slot' records'
      rw [← stands]
      exact Nat.not_lt.1 fun lt => missed o legal lt completes
    · rw [Slot.resolve_of_not_matched (Bool.eq_false_iff.2 (mt hit.1 h))] at slot'
      rw [records, if_neg (mt hit.1 h), List.nil_append] at records'
      refine .waiting slot' (fun o legal lt => ?_) records'
      obtain earlier | now : o.index < v.pcnt.toNat ∨ o.index = v.dig.index := by omega
      · exact missed o legal earlier
      · rwa [Odometer.eq_of_index legal inv.digits_le now]
  | found first slot records =>
    have slot' := advance_getElem? inv hc slot
    have records' := advance_records_filter inv hc slot
    have unmatched : ({ sl with pend := false } : Slot).matched (v.dig.leadHash v.cfg) = false := by
      rw [Slot.matched_eq, Bool.false_and]
    rw [Slot.resolve_of_not_matched unmatched] at slot'
    rw [unmatched, if_neg Bool.false_ne_true, List.append_nil] at records'
    exact .found first slot' (records'.trans records)

end

theorem Searched.slotStands {s u : State} {k j : Nat} {sl : Slot} (h : Searched s k u) (inv : s.Inv) (hc : s.cfg.MinvCorrect)
    (pending : sl.pend = true) (first : SlotStands s.cfg j sl s) : SlotStands s.cfg j sl u := by
  induction h with
  | start => exact first
  | step before running _ ih =>
    have cfg := before.cfg
    rw [← cfg] at ih hc ⊢
    exact ih.advance (before.inv inv) hc running pending

/-- A pending slot is counted. -/
theorem State.pendingCount_pos {s : State} {sl : Slot} (h : sl ∈ s.allocated) (pending : sl.pend = true) :
    0 < s.pendingCount :=
  List.countP_pos_iff.2 ⟨sl, h, pending⟩

/-- Two least leading parts are one. -/
theorem Slot.FirstHit.unique {c : Params} {sl : Slot} {o o' : Odometer} (h : sl.FirstHit c o) (h' : sl.FirstHit c o') : o = o' :=
  Odometer.eq_of_index h.legal h'.legal (Nat.le_antisymm (h.least o' h'.legal h'.hit) (h'.least o h.legal h.hit))

/-- At the end of a search a slot still waits only if no leading part at all completes it. -/
theorem SlotStands.not_hitBy {c : Params} {j : Nat} {sl : Slot} {u : State} (stands : SearchStands u) (ended : u.run = false)
    (pending : sl.pend = true) (slot : u.allocated[j]? = some sl)
    (missed : ∀ o : Odometer, o.legal → o.index < u.pcnt.toNat → ¬ sl.hitBy c o) (o : Odometer) (legal : o.legal) :
    ¬ sl.hitBy c o := by
  cases stands with
  | searching run => cases ended.symm.trans run
  | emptied _ _ _ zero => exact absurd zero (State.pendingCount_pos (List.mem_of_getElem? slot) pending).ne'
  | exhausted _ _ _ _ counted => exact missed o legal (counted ▸ Odometer.index_lt legal)

/-- A search begun by `SSTART`: the stores as they were, no record, and the first leading part to come. -/
structure Begun (s u : State) : Prop where
  inv : u.Inv
  cfg : u.cfg = s.cfg
  allocated : u.allocated = s.allocated
  records : u.records = []
  pcnt : u.pcnt = 0

theorem begun_of_exec_sstart {s u : State} (inv : s.Inv) (idle : s.run = false) (clear : s.fault = false)
    (h : exec .sstart s = .next u) : Begun s u := by
  have inv' := inv.exec h
  obtain rfl := Host.Outcome.next.inj ((exec_sstart_of_idle clear idle).symm.trans h)
  exact ⟨inv', rfl, rfl, rfl, rfl⟩

theorem State.tgt_of_allocated {s : State} {j : Nat} {sl : Slot} (h : s.allocated[j]? = some sl) : s.tgt[j]? = some sl := by
  rw [State.allocated, List.getElem?_take] at h
  split at h
  · exact h
  · cases h

/-- Settles O46: the slot followed from `SSTART` to the end of the search. -/
theorem completeSearchFindsTheLeastPreimage : Obligations.CompleteSearchFindsTheLeastPreimage := by
  unfold Obligations.CompleteSearchFindsTheLeastPreimage
  intro n s u t inv hc idle clear enough hstart running hrun j sl hj hsl pending
  have begun := begun_of_exec_sstart inv idle clear hstart
  have hc' : u.cfg.MinvCorrect := begun.cfg ▸ hc
  obtain ⟨k, v, reached, ended, rfl⟩ := exists_searched_of_exec_srun begun.inv hc' running enough hrun
  have slot : u.allocated[j]? = some sl := by
    rw [begun.allocated, State.allocated, List.getElem?_take_of_lt hj, hsl]
  have first : SlotStands u.cfg j sl u :=
    .waiting slot (fun o _ lt => absurd (begun.pcnt ▸ lt) (Nat.not_lt_zero _)) (by rw [begun.records]; rfl)
  have last := reached.slotStands begun.inv hc' pending first
  rw [begun.cfg] at last
  cases last with
  | waiting slot missed records =>
    have unhit := SlotStands.not_hitBy (reached.stands begun.inv running) ended pending slot missed
    exact ⟨fun o hit => absurd hit.hit (unhit o hit.legal), fun _ => ⟨State.tgt_of_allocated slot, records⟩⟩
  | found hit slot records =>
    refine ⟨fun o hit' => ?_, fun unhit => absurd hit.hit (unhit _ hit.legal)⟩
    obtain rfl := hit.unique hit'
    exact ⟨State.tgt_of_allocated slot, records⟩

end Sys2Proof.Machine
end

/-! ### A complete search is the document's search (44_searcher.md R182, R183)

The document's index holds the pending slots, bucket by bucket; one string of the document's enumeration is one step of the block. -/

section
namespace Sys2Proof.Machine

/-! #### The strings in lexicographic order (R170) -/

/-- The place of an element in a list of equally long pieces. -/
theorem getElem?_flatMap_of_length {α β : Type} {f : α → List β} {m r : Nat} (len : ∀ a, (f a).length = m) (hr : r < m)
    (l : List α) (i : Nat) : (l.flatMap f)[i * m + r]? = l[i]?.bind fun a => (f a)[r]? := by
  induction l generalizing i with
  | nil => rfl
  | cons a l ih =>
    rw [List.flatMap_cons]
    cases i with
    | zero =>
      rw [Nat.zero_mul, Nat.zero_add, List.getElem?_append_left (by rw [len]; exact hr)]
      rfl
    | succ i =>
      have place : (i + 1) * m + r - m = i * m + r := by
        rw [Nat.succ_mul]
        omega
      have behind : m ≤ (i + 1) * m + r := by
        rw [Nat.succ_mul]
        omega
      rw [List.getElem?_append_right (by rw [len]; exact behind), len, place, ih, List.getElem?_cons_succ]

theorem alphabet_length : alphabet.length = 94 := by
  rw [alphabet_eq_map_alpha, List.length_map, List.length_range]

theorem alphabet_getElem? {d : BitVec 7} (legal : d.toNat ≤ 93) : alphabet[d.toNat]? = some (alpha d) := by
  rw [alphabet_eq_map_alpha, List.getElem?_map, List.getElem?_range (by omega), Option.map_some, BitVec.ofNat_toNat,
    BitVec.setWidth_eq]

theorem alphabetStrings_length (k : Nat) : (alphabetStrings k).length = 94 ^ k := by
  induction k with
  | zero => rfl
  | succ k ih =>
    have piece : (fun b : Byte => ((alphabetStrings k).map (b :: ·)).length) = fun _ => 94 ^ k :=
      funext fun b => by rw [List.length_map, ih]
    rw [alphabetStrings, List.length_flatMap, piece, List.map_const', List.sum_replicate, alphabet_length, smul_eq_mul,
      Nat.pow_succ']

/-- The number of a digit string is its place in the enumeration. -/
theorem alphabetStrings_getElem? {ds : List (BitVec 7)} (legal : ∀ d ∈ ds, d.toNat ≤ 93) :
    (alphabetStrings ds.length)[digitsNumber ds]? = some (ds.map alpha) := by
  induction ds with
  | nil => rfl
  | cons d ds ih =>
    obtain ⟨hd, hds⟩ := List.forall_mem_cons.1 legal
    have piece (b : Byte) : ((alphabetStrings ds.length).map (b :: ·)).length = 94 ^ ds.length := by
      rw [List.length_map, alphabetStrings_length]
    rw [List.length_cons, alphabetStrings, digitsNumber, getElem?_flatMap_of_length piece (digitsNumber_lt hds),
      alphabet_getElem? hd, Option.bind_some, List.getElem?_map, ih hds]
    rfl

theorem alphabetStrings_getElem?_index {o : Odometer} (legal : o.legal) : (alphabetStrings 8)[o.index]? = some o.bytes := by
  have len : o.digits.length = 8 := rfl
  rw [Odometer.index_eq_digitsNumber, ← len]
  exact alphabetStrings_getElem? legal

/-! #### The document's index (43_targetindex.md R153) -/

@[simp] theorem DocIndex.bucket_nil (g : Word) : DocIndex.bucket [] g = [] := rfl

theorem DocIndex.bucket_cons (e : Word × List (Word × Word)) (idx : DocIndex) (g : Word) :
    DocIndex.bucket (e :: idx) g = if e.1 = g then e.2 else DocIndex.bucket idx g := by
  unfold DocIndex.bucket
  rw [List.find?_cons]
  by_cases h : e.1 = g
  · rw [if_pos h, h, beq_self_eq_true]
  · rw [if_neg h, beq_eq_false_iff_ne.2 h]

theorem DocIndex.bucket_append (idx : DocIndex) (sg : Word) (pair : Word × Word) (g : Word) :
    (DocIndex.append sg pair idx).bucket g = if sg = g then idx.bucket g ++ [pair] else idx.bucket g := by
  induction idx with
  | nil => rw [DocIndex.append, DocIndex.bucket_cons, DocIndex.bucket_nil, List.nil_append]
  | cons e idx ih =>
    rw [DocIndex.append, DocIndex.bucket_cons]
    by_cases here : e.1 = sg
    · rw [if_pos here, DocIndex.bucket_cons, here]
      split <;> rfl
    · rw [if_neg here, DocIndex.bucket_cons, ih]
      split
      · next h => rw [if_neg (fun same => here (h.trans same.symm))]
      · rfl

/-- A bucket that becomes empty is removed. -/
theorem DocIndex.bucket_filter_ne (idx : DocIndex) (sg g : Word) :
    DocIndex.bucket (idx.filter fun e => e.1 != sg) g = if sg = g then [] else idx.bucket g := by
  induction idx with
  | nil => exact (ite_self _).symm
  | cons e idx ih =>
    rw [List.filter_cons, DocIndex.bucket_cons]
    by_cases here : e.1 = sg
    · simp only [here, bne_self_eq_false, Bool.false_eq_true, if_false, ih]
      split <;> rfl
    · rw [if_pos (bne_iff_ne.2 here), DocIndex.bucket_cons, ih]
      split
      · next h => rw [if_neg (fun same => here (h.trans same.symm))]
      · rfl

/-- The entry of one signature changed. -/
def DocIndex.update (idx : DocIndex) (sg : Word) (left : List (Word × Word)) : DocIndex :=
  idx.map fun e => if e.1 == sg then (e.1, left) else e

theorem DocIndex.bucket_update_cons (e : Word × List (Word × Word)) (idx : DocIndex) (sg : Word) (left : List (Word × Word))
    (g : Word) : (DocIndex.update (e :: idx) sg left).bucket g =
      if e.1 = g then (if e.1 = sg then left else e.2) else (idx.update sg left).bucket g := by
  rw [DocIndex.update, List.map_cons, DocIndex.bucket_cons, DocIndex.update]
  by_cases here : e.1 = sg
  · rw [if_pos (beq_iff_eq.2 here), if_pos here]
  · rw [if_neg (mt beq_iff_eq.1 here), if_neg here]

theorem DocIndex.bucket_update_other (idx : DocIndex) {sg g : Word} (other : sg ≠ g) (left : List (Word × Word)) :
    (idx.update sg left).bucket g = idx.bucket g := by
  induction idx with
  | nil => rfl
  | cons e idx ih =>
    rw [DocIndex.bucket_update_cons, DocIndex.bucket_cons, ih]
    split
    · next here => rw [if_neg fun same => other (same.symm.trans here)]
    · rfl

theorem DocIndex.bucket_update_self {idx : DocIndex} {sg : Word} (present : idx.bucket sg ≠ []) (left : List (Word × Word)) :
    (idx.update sg left).bucket sg = left := by
  induction idx with
  | nil => exact absurd rfl present
  | cons e idx ih =>
    rw [DocIndex.bucket_cons] at present
    rw [DocIndex.bucket_update_cons]
    split
    · rfl
    · next other => exact ih (by rwa [if_neg other] at present)

/-- What is left of the bucket of a signature takes its place. -/
theorem DocIndex.bucket_shrink {idx : DocIndex} {sg : Word} (present : idx.bucket sg ≠ []) (left : List (Word × Word))
    (g : Word) : (idx.shrink sg left).bucket g = if sg = g then left else idx.bucket g := by
  unfold DocIndex.shrink
  split
  · next h => rw [DocIndex.bucket_filter_ne, h]
  · split
    · next same => exact same ▸ DocIndex.bucket_update_self present left
    · next other => exact DocIndex.bucket_update_other idx other left

/-- The index has a bucket only for a signature of some pair. -/
def DocIndex.Tidy (idx : DocIndex) : Prop := ∀ e ∈ idx, e.2 ≠ []

theorem DocIndex.Tidy.append {idx : DocIndex} (tidy : idx.Tidy) (sg : Word) (pair : Word × Word) :
    (DocIndex.append sg pair idx).Tidy := by
  induction idx with
  | nil => exact List.forall_mem_singleton.2 (List.cons_ne_nil _ _)
  | cons e idx ih =>
    obtain ⟨he, hidx⟩ := List.forall_mem_cons.1 tidy
    rw [DocIndex.append]
    split
    · exact List.forall_mem_cons.2 ⟨by simp, hidx⟩
    · exact List.forall_mem_cons.2 ⟨he, ih hidx⟩

theorem DocIndex.Tidy.shrink {idx : DocIndex} (tidy : idx.Tidy) (sg : Word) (left : List (Word × Word)) :
    (idx.shrink sg left).Tidy := by
  unfold DocIndex.shrink
  split
  · exact fun e he => tidy e (List.mem_of_mem_filter he)
  · next some =>
    refine List.forall_mem_map.2 fun e he => ?_
    split
    · exact some
    · exact tidy e he

/-- The document's index holds these slots, in their order within each bucket. -/
structure DocIndex.Holds (idx : DocIndex) (ts : List Slot) : Prop where
  tidy : idx.Tidy
  bucket : ∀ g : Word, idx.bucket g = (ts.filter fun t => sig t.trim == g).map Slot.pair

theorem DocIndex.holds_ofSlots (ts : List Slot) : (DocIndex.ofSlots ts).Holds ts := by
  induction ts using List.reverseRecOn with
  | nil => exact ⟨nofun, fun _ => rfl⟩
  | append_singleton ts t ih =>
    have last : DocIndex.ofSlots (ts ++ [t]) = DocIndex.append (sig t.trim) t.pair (DocIndex.ofSlots ts) := List.foldl_concat ..
    rw [last]
    refine ⟨ih.tidy.append _ _, fun g => ?_⟩
    rw [DocIndex.bucket_append, ih.bucket, List.filter_append, List.map_append, List.filter_cons]
    by_cases h : sig t.trim = g
    · simp [h]
    · simp [h]

/-- An index that holds nothing is empty. -/
theorem DocIndex.Holds.eq_nil_of_nil {idx : DocIndex} (h : idx.Holds []) : idx = [] := by
  cases idx with
  | nil => rfl
  | cons e idx =>
    have empty := h.bucket e.1
    rw [DocIndex.bucket_cons, if_pos rfl] at empty
    exact absurd empty (h.tidy e List.mem_cons_self)

/-! #### One string of the enumeration (R174) -/

/-- With nothing left the document's search finds nothing more. -/
theorem docSearch_nil (c : Params) (xs : List (List Byte)) : docSearch c xs [] = ([], []) := by
  cases xs <;> rfl

/-- The pairs that the hash `p` of a leading part completes. -/
def DocIndex.matched (idx : DocIndex) (p : Word) : List (Word × Word) :=
  (idx.bucket (sig p)).filter fun e => validTail (p ^^^ e.2)

/-- The index without them. -/
def DocIndex.without (idx : DocIndex) (p : Word) : DocIndex :=
  if idx.matched p = [] then idx else idx.shrink (sig p) ((idx.bucket (sig p)).filter fun e => !validTail (p ^^^ e.2))

/-- The results of one string come first, and the search goes on with the index that is left, empty or not. -/
theorem docSearch_cons {c : Params} {x : List Byte} {p : Word} (lead : partialForwardHash c x 15 = p) (xs : List (List Byte))
    (idx : DocIndex) :
    docSearch c (x :: xs) idx =
      (((idx.matched p).map fun e => (e.1, x ++ (bytes8 (p ^^^ e.2)).take 7)) ++ (docSearch c xs (idx.without p)).1,
        (docSearch c xs (idx.without p)).2) := by
  have unfolded : docSearch c (x :: xs) idx =
      if idx.without p = [] then ((idx.matched p).map fun e => (e.1, x ++ (bytes8 (p ^^^ e.2)).take 7), idx.without p)
      else (((idx.matched p).map fun e => (e.1, x ++ (bytes8 (p ^^^ e.2)).take 7)) ++ (docSearch c xs (idx.without p)).1,
        (docSearch c xs (idx.without p)).2) := by
    rw [docSearch, lead]
    rfl
  rw [unfolded]
  split
  · next empty => rw [empty, docSearch_nil, List.append_nil]
  · rfl

section
variable {idx : DocIndex} {ts : List Slot} (holds : idx.Holds ts) (pending : ∀ t ∈ ts, t.pend = true) (p : Word)
include holds pending

/-- The pairs whose candidate is a valid tail are those of the matched slots. -/
theorem DocIndex.Holds.matched : idx.matched p = (ts.filter (Slot.matched p)).map Slot.pair := by
  have pairs : (fun e : Word × Word => validTail (p ^^^ e.2)) ∘ Slot.pair = fun t => validTail (p ^^^ t.trim) := rfl
  rw [DocIndex.matched, holds.bucket, List.filter_map, pairs, List.filter_filter]
  congr 1
  refine List.filter_congr fun t ht => ?_
  rw [Slot.matched, Slot.inBucket, pending t ht, Bool.true_and, Bool.and_comm]
  rfl

theorem DocIndex.Holds.without : (idx.without p).Holds (ts.filter fun t => !t.matched p) := by
  unfold DocIndex.without
  split
  · next none =>
    rw [holds.matched pending, List.map_eq_nil_iff, List.filter_eq_nil_iff] at none
    have all : (ts.filter fun t => !t.matched p) = ts :=
      List.filter_eq_self.2 fun t ht => by rw [Bool.eq_false_iff.2 (none t ht), Bool.not_false]
    rwa [all]
  · next some =>
    have present : idx.bucket (sig p) ≠ [] := fun empty => some (by rw [DocIndex.matched, empty]; rfl)
    have pairs : (fun e : Word × Word => !validTail (p ^^^ e.2)) ∘ Slot.pair = fun t => !validTail (p ^^^ t.trim) := rfl
    refine ⟨holds.tidy.shrink _ _, fun g => ?_⟩
    rw [DocIndex.bucket_shrink present, holds.bucket, holds.bucket, List.filter_map, pairs, List.filter_filter,
      List.filter_filter]
    split
    · next same =>
      congr 1
      refine List.filter_congr fun t ht => ?_
      rw [Slot.matched, Slot.inBucket, pending t ht, Bool.true_and, candidate, same]
      cases sig t.trim == g <;> simp
    · next other =>
      congr 1
      refine List.filter_congr fun t ht => ?_
      rw [Slot.matched, Slot.inBucket, pending t ht, Bool.true_and]
      by_cases here : sig t.trim = g
      · rw [beq_eq_false_iff_ne.2 (fun same : sig t.trim = sig p => other (same.symm.trans here)), Bool.false_and,
          Bool.not_false, Bool.and_true]
      · rw [beq_eq_false_iff_ne.2 here, Bool.false_and]

end

/-- What the document finds with these slots in its index: for each that is matched, its hash and the key. -/
def slotResults (x : List Byte) (p : Word) (ts : List Slot) : List (Word × List Byte) :=
  (ts.filter (Slot.matched p)).map fun t => (t.hash, candidateKey x p t)

theorem DocIndex.Holds.results {idx : DocIndex} {ts : List Slot} (holds : idx.Holds ts) (pending : ∀ t ∈ ts, t.pend = true)
    (x : List Byte) (p : Word) :
    ((idx.matched p).map fun e => (e.1, x ++ (bytes8 (p ^^^ e.2)).take 7)) = slotResults x p ts := by
  rw [holds.matched pending, List.map_map]
  rfl

/-- The results as the FIFO keeps them. -/
def toRecords (found : List (Word × List Byte)) : List Record := found.map fun e => ⟨e.1, e.2 ++ [0]⟩

/-! #### The two searches side by side -/

/-- The slots still in the index. -/
def State.pendingSlots (s : State) : List Slot := s.allocated.filter fun t => t.pend

theorem State.pend_of_mem_pendingSlots (s : State) : ∀ t ∈ s.pendingSlots, t.pend = true := fun _ h => (List.mem_filter.1 h).2

theorem State.pendingSlots_eq_nil {s : State} (zero : s.pendingCount = 0) : s.pendingSlots = [] := by
  rwa [State.pendingCount, List.countP_eq_length_filter, List.length_eq_zero_iff] at zero

/-- What the store's bucket is, as the document's pairs. -/
theorem State.bucket_eq (s : State) (g : Word) : s.bucket g = s.pendingSlots.filter fun t => sig t.trim == g := by
  rw [State.pendingSlots, List.filter_filter, State.bucket]
  exact List.filter_congr fun t _ => Bool.and_comm _ _

section
variable {v : State} (inv : v.Inv) (hc : v.cfg.MinvCorrect)
include inv hc

theorem advance_pendingSlots :
    v.advance.pendingSlots = v.pendingSlots.filter fun t => !t.matched (v.dig.leadHash v.cfg) := by
  rw [State.pendingSlots, advance_allocated inv hc, State.pendingSlots]
  induction v.allocated with
  | nil => rfl
  | cons t l ih =>
    rw [List.map_cons, List.filter_cons, List.filter_cons, ih]
    cases h : t.matched (v.dig.leadHash v.cfg) with
    | true => simp [Slot.resolve_of_matched h, Slot.pend_of_matched h, h]
    | false => rw [Slot.resolve_of_not_matched h, apply_ite (List.filter _), List.filter_cons_of_pos (by rw [h]; rfl)]

/-- The new records are the results the document's step finds. -/
theorem advance_records_eq : v.advance.records =
    v.records ++ toRecords (slotResults v.dig.bytes (v.dig.leadHash v.cfg) v.pendingSlots) := by
  have matched : v.pendingSlots.filter (Slot.matched (v.dig.leadHash v.cfg)) =
      v.allocated.filter (Slot.matched (v.dig.leadHash v.cfg)) := by
    rw [State.pendingSlots, List.filter_filter]
    exact List.filter_congr fun t _ => Bool.and_eq_left_iff_imp.2 Slot.pend_of_matched
  rw [advance_records inv hc, slotResults, matched, toRecords, List.map_map]
  rfl

end

/-- Where the document's search, with the outcome `d` in the end, stands when the block stands at `v`. -/
structure DocStands (d : List (Word × List Byte) × DocIndex) (v : State) (found : List (Word × List Byte))
    (idx : DocIndex) : Prop where
  holds : idx.Holds v.pendingSlots
  records : v.records = toRecords found
  rest : d = (found ++ (docSearch v.cfg ((alphabetStrings 8).drop v.pcnt.toNat) idx).1,
    (docSearch v.cfg ((alphabetStrings 8).drop v.pcnt.toNat) idx).2)

/-- The string that the block examines is the next of the enumeration. -/
theorem drop_alphabetStrings {v : State} (inv : v.Inv) (running : v.run = true) :
    (alphabetStrings 8).drop v.pcnt.toNat = v.dig.bytes :: (alphabetStrings 8).drop v.advance.pcnt.toNat := by
  have next := alphabetStrings_getElem?_index inv.digits_le
  rw [← inv.progress running] at next
  obtain ⟨lt, next⟩ := List.getElem?_eq_some_iff.1 next
  rw [advance_pcnt inv running, List.drop_eq_getElem_cons lt, next]

theorem DocStands.advance {d : List (Word × List Byte) × DocIndex} {v : State} {found : List (Word × List Byte)}
    {idx : DocIndex} (h : DocStands d v found idx) (inv : v.Inv) (hc : v.cfg.MinvCorrect) (running : v.run = true) :
    ∃ found' idx', DocStands d v.advance found' idx' := by
  have cfg : v.advance.cfg = v.cfg := (congrArg State.cfg (searchFrame_advance v)).trans rfl
  have lead := (v.dig.leadHash_eq v.cfg).symm
  have pending := v.pend_of_mem_pendingSlots
  refine ⟨found ++ slotResults v.dig.bytes (v.dig.leadHash v.cfg) v.pendingSlots, idx.without (v.dig.leadHash v.cfg),
    ?_, ?_, ?_⟩
  · rw [advance_pendingSlots inv hc]
    exact h.holds.without pending _
  · rw [advance_records_eq inv hc, h.records, toRecords, toRecords, toRecords, List.map_append]
  · rw [cfg, h.rest, drop_alphabetStrings inv running, docSearch_cons lead, h.holds.results pending, List.append_assoc]

theorem Searched.docStands {d : List (Word × List Byte) × DocIndex} {s u : State} {k : Nat} (h : Searched s k u) (inv : s.Inv)
    (hc : s.cfg.MinvCorrect) (first : ∃ found idx, DocStands d s found idx) : ∃ found idx, DocStands d u found idx := by
  induction h with
  | start => exact first
  | step before running _ ih =>
    obtain ⟨found, idx, stands⟩ := ih
    exact stands.advance (before.inv inv) (before.cfg ▸ hc) running

/-- At the end of the block's search the document's is at its end too. -/
theorem DocStands.ended {d : List (Word × List Byte) × DocIndex} {v : State} {found : List (Word × List Byte)} {idx : DocIndex}
    (h : DocStands d v found idx) (stands : SearchStands v) (ended : v.run = false) : d = (found, idx) := by
  have done : docSearch v.cfg ((alphabetStrings 8).drop v.pcnt.toNat) idx = ([], idx) := by
    cases stands with
    | searching run => cases ended.symm.trans run
    | emptied _ _ _ zero =>
      have empty : idx = [] := (State.pendingSlots_eq_nil zero ▸ h.holds).eq_nil_of_nil
      rw [empty, docSearch_nil]
    | exhausted _ _ _ _ counted =>
      rw [counted, ← alphabetStrings_length, List.drop_length, docSearch]
  rw [h.rest, done, List.append_nil]

/-- Settles O47: the two searches side by side, from `SSTART` to the end. -/
theorem completeSearchIsTheDocumentsSearch : Obligations.CompleteSearchIsTheDocumentsSearch := by
  unfold Obligations.CompleteSearchIsTheDocumentsSearch
  intro n s u t inv hc idle clear enough hstart running hrun found
  have begun := begun_of_exec_sstart inv idle clear hstart
  have hc' : u.cfg.MinvCorrect := begun.cfg ▸ hc
  obtain ⟨k, v, reached, ended, rfl⟩ := exists_searched_of_exec_srun begun.inv hc' running enough hrun
  have first : DocStands found u [] (DocIndex.ofSlots s.pendingSlots) :=
    { holds := by
        rw [State.pendingSlots, State.pendingSlots, begun.allocated]
        exact DocIndex.holds_ofSlots _
      records := begun.records
      rest := by
        rw [begun.cfg, begun.pcnt]
        rfl }
  obtain ⟨results, idx, last⟩ := reached.docStands begun.inv hc' ⟨_, _, first⟩
  rw [last.ended (reached.stands begun.inv running) ended]
  refine ⟨last.records, fun g => ?_⟩
  have bucket := last.holds.bucket g
  rwa [← State.bucket_eq] at bucket

end Sys2Proof.Machine
end
